-- ==== Sys2Proof/Word.lean ====
section
/-! DEFINITION. The word types of the IGE chaining controller (spec/00_scope.md R4, R8, R9; spec/20_memory.md R40). -/

namespace Sys2Proof

/-- A byte, an unsigned 8-bit value (R8). -/
abbrev Byte := BitVec 8

/-- A register or write-data word of the host port, 32 bits wide (R9). -/
abbrev Word := BitVec 32

/-- A byte address of system memory, `ADDR_W = 32` bits (R6, R40, R49). -/
abbrev Addr := BitVec 32

/-- A byte address in the host's space, where the register windows lie, and `REG_BASE` itself.
DESIGN CHOICE (notes/assumptions/24): the spec gives neither a width (R38, R39; `ADDR_W` is the memory's), and the model
takes 32 bits. -/
abbrev HostAddr := BitVec 32

/-- A block: exactly 16 bytes, position 0 being the first byte in memory (R4, R8). -/
abbrev Block := Vector Byte 16

end Sys2Proof
end

