-- ==== Sys2Proof/Syntax.lean ====
section
/-! DEFINITION. The operations of spec/opcode_table.json, one constructor a row, and the words that carry them
(spec/30_encoding.md R62 to R68), with the word of a core response. -/

namespace Sys2Proof

/-- The cipher variant that the key length selects (R5, R67). -/
inductive Variant where
  | v128
  | v192
  | v256
  deriving DecidableEq, Repr

/-- The key length in bytes that selects a variant (R5, R67). -/
def Variant.keyBytes : Variant → Nat
  | .v128 => 16
  | .v192 => 24
  | .v256 => 32

/-- The fields of a SET_KEY request: how many key bytes there are, and the `data` they stand in (R65, R70). -/
structure KeyFields where
  klen : BitVec 6
  data : Vector Byte 32
  deriving DecidableEq, Repr

/-- The 27 encoded operations: 22 host register accesses (R64) and 5 cipher-core requests (R66).
A write carries its 32-bit write data `d`; `n` and `r` are the field `A[4:2]`; SET_KEY carries its two
fields (R65). -/
inductive Instr where
  | rdCtrl
  | wrCtrl (d : Word)
  | rdStatus
  | wrStatus (d : Word)
  | rdErrcode
  | wrErrcode (d : Word)
  | rdBlkcnt
  | wrBlkcnt (d : Word)
  | rdLength
  | wrLength (d : Word)
  | rdSrc
  | wrSrc (d : Word)
  | rdDst
  | wrDst (d : Word)
  | rdKeylen
  | wrKeylen (d : Word)
  | rdKey (n : Fin 8)
  | wrKey (n : Fin 8) (d : Word)
  | rdIv (n : Fin 8)
  | wrIv (n : Fin 8) (d : Word)
  | rdRsvd (r : Fin 8)
  | wrRsvd (r : Fin 8) (d : Word)
  | coreOpen (v : Variant)
  | coreSetKey (key : KeyFields)
  | coreEnc (b : Block)
  | coreDec (b : Block)
  | coreClose
  deriving DecidableEq, Repr

/-- A host access word with its write data (R63): `access[7]` is `W`, `access[6:0]` the byte offset. -/
structure HostWord where
  access : BitVec 8
  data : Word
  deriving DecidableEq, Repr

/-- A cipher-core request (R65): `op` is bits 266:264, `variant` 263:262, `klen` 261:256, and byte `k` of `data`
is bits `8k+7:8k`. -/
structure CoreWord where
  op : BitVec 3
  variant : BitVec 2
  klen : BitVec 6
  data : Vector Byte 32
  deriving DecidableEq, Repr

/-- A cipher-core response (R68): `ok` is bit 128, and byte `k` of `data` is bits `8k+7:8k`. -/
structure CoreResp where
  ok : Bool
  data : Block
  deriving DecidableEq, Repr

/-- The words an operation is carried by.  The port it arrives on decides its format (R62). -/
inductive Encoded where
  | host (w : HostWord)
  | core (q : CoreWord)
  deriving DecidableEq, Repr

/-- Why the decoder gives no operation. -/
inductive DecodeError where
  /-- `A[1:0] != 00`: the access word names no register (R63).  Raised by `decodeHost`; the host port answers
  it with a slave error and the machine goes on, as the spec says: safe. -/
  | noRegister
  /-- Core `op` 101, 110 or 111 (R66, R74).  Raised by `decodeCore`; the controller never sends one. -/
  | reservedOp
  /-- OPEN with `variant` 11 (R67, R74).  Raised by `decodeCore`; the controller never sends one. -/
  | reservedVariant
  deriving DecidableEq, Repr

end Sys2Proof
end

