-- ==== Sys2Proof/Config.lean ====
section
/-! DEFINITION. What the platform fixes and what the spec leaves OPEN as a function (spec/00_scope.md R6, R7).
The OPEN parameters that are plain data (REG_BASE, MemOk, CoreOk, INSTANCES) stand in State or in its
schedule instead, where every statement quantifies over them (notes/assumptions/3, 4, 5, 6). -/

namespace Sys2Proof.Config

/-- `E(v, k, b)`: the cipher core's single-block encryption, an OPEN parameter of which the model assumes
nothing but that it is a function of `(v, k, b)` alone (R7, R109, D5).  It has no body on purpose. -/
opaque E : Variant → List Byte → Block → Block

/-- `D(v, k, b)`: the cipher core's single-block decryption, OPEN like `E` (R7, R109, D5). -/
opaque D : Variant → List Byte → Block → Block

/-- The named law of R7, over any pair of block functions: `D(v, k, E(v, k, b)) = b` for every variant, every
key of the variant's length and every block. -/
def InvLaw (enc dec : Variant → List Byte → Block → Block) : Prop :=
  ∀ (v : Variant) (k : List Byte) (b : Block), k.length = v.keyBytes → dec v k (enc v k b) = b

/-- What a byte of system memory that nothing has written reads as.
DESIGN CHOICE (notes/assumptions/1), unsafe: the spec gives system memory no reset contents (R160). -/
def unlistedByte : Byte := 0x00#8

/-- The register window of one controller: 32 registers of 4 bytes (R6, R16). -/
def windowBytes : Nat := 128

/-- The greatest offset of a register in the window, 0x7C (R16, R44). -/
def lastOffset : Nat := 0x7C

end Sys2Proof.Config
end

