-- ==== Sys2Proof/Machine/State.lean ====
section
/-! DEFINITION. The state of the machine as plain data: every register, flag and latch of spec/10_state.md, the
cipher core of spec/42_cipher_port.md, system memory of spec/20_memory.md, and the schedule of agent steps of R11. -/

namespace Sys2Proof.Machine

/-- Why the machine stops with a fault.  No step of this hardware does: a refused host access ends in a slave error
and the machine goes on (R44), a refused memory access in `ERRCODE` 5 (R149), and a core that never answers in a
state in which one agent has no move (R156).  Nothing raises a fault, so the type has no constructor: safe. -/
inductive Fault
  deriving DecidableEq, Repr

/-- Why an operation has no meaning. -/
inductive Refusal where
  /-- An operation whose meaning has not been written.  Raised by `exec`'s refused arms only, of which there are
  none: safe. -/
  | notModelled (mnemonic : String)
  /-- The cipher core is asked to answer a reserved request: `op` 101 to 111, or OPEN with `variant` 11.
  Raised by `coreStep`: safe.  The controller never sends one, and "what a core does with them is outside this
  hardware" (R74, spec/93 I16). -/
  | reservedCoreRequest
  deriving DecidableEq, Repr

/-- The outcome of a step of this machine. -/
abbrev Outcome (σ : Type) := Host.Outcome σ Fault Refusal

/-- The sequencer's control state, exposed in `STATUS[6:4]` (R29).  Value 7 is never entered. -/
inductive SeqState where
  | idle
  | validating
  | setup
  | processing
  | closing
  | completed
  | failed
  deriving DecidableEq, Repr

/-- The hidden sub-state `ph` (R31). -/
inductive Phase where
  | none
  | openReq
  | openWait
  | key
  | keyWait
  | fetch
  | cipher
  | cipherWait
  | write
  | close
  | closeWait
  deriving DecidableEq, Repr

/-- `ERRCODE.CODE` (R144).  The values 6 to 15 are never produced. -/
inductive ErrCode where
  | none
  | invalidLength
  | invalidKeyLength
  | oracleSetupFailure
  | blockOperationFailure
  | memoryAccessFailure
  deriving DecidableEq, Repr

/-- The kind of a memory-port byte access (R46). -/
inductive AccessKind where
  | read
  | write
  deriving DecidableEq, Repr

/-- The free values of one core step: the draw `CoreOk`, the block that stands wherever the spec says "any"
(R110 to R115, spec/93 I2, I3), and the key bytes that a SET_KEY with a `klen` above 32 asks for and `data` does not
hold (R111; DESIGN CHOICE, notes/assumptions/12). -/
structure CoreDraw where
  ok : Bool
  any : Block
  keyTail : Vector Byte 31
  deriving DecidableEq, Repr

/-- What the host register port last answered (R14). -/
inductive HostResponse where
  | idle
  | ack
  | data (w : Word)
  | slaveError
  deriving DecidableEq, Repr

/-- The input and output ranges of one transform, of `bytes` bytes each (R54, R164), and how many bytes of the output
range, from its start, the controller has written. -/
structure BufferWindow where
  src : Addr
  dst : Addr
  bytes : Nat
  written : Nat
  deriving DecidableEq, Repr

/-- The MODEL's own note of what races with an instance's transforms (R54, R55, R159, notes/assumptions/7). -/
structure Races where
  /-- The transform of the last accepted START, until the host reads `DONE = 1`. -/
  window : Option BufferWindow
  /-- The transforms of earlier STARTs that ended before the last one and whose `DONE = 1` the host has not read. -/
  earlier : List BufferWindow
  /-- The bytes of the running transform's ranges that another agent has written since its START. -/
  foreign : List Nat
  /-- The transforms of other instances that were running at the last START. -/
  rivals : List BufferWindow
  deriving DecidableEq, Repr

/-- Nothing races. -/
def Races.none : Races :=
  ⟨Option.none, [], [], []⟩

/-- A range of addresses at which the platform refuses one kind of memory-port access (`MemOk`, R46). -/
structure DenyRange where
  kind : AccessKind
  base : Nat
  bytes : Nat
  deriving DecidableEq, Repr

/-- One transaction on the host register port (R14, R120), addressed in the host's space (R39), whose width is the
model's (notes/assumptions/24). -/
structure HostAccess where
  write : Bool
  addr : HostAddr
  size : Nat
  data : Word
  deriving DecidableEq, Repr

/-- One step of one agent (R11, R13), with the free values it may use. -/
inductive Event where
  /-- The host accesses a register window (R120); the address decides whose (R39, R159). -/
  | host (acc : HostAccess)
  /-- The host reads a byte of system memory (R40); `any` is what a racing read returns (R55). -/
  | hostLoad (a : Addr) (any : Byte)
  /-- The host writes a byte of system memory (R40); `any` is what a byte that both wrote holds (R55). -/
  | hostStore (a : Addr) (v any : Byte)
  /-- The controller takes its enabled step (R88); `any` are the values of racing bytes (R55). -/
  | controller (any : Block)
  /-- The cipher core answers the pending request (R108). -/
  | core (draw : CoreDraw)
  /-- The platform sets which memory-port accesses it refuses (R46, R162). -/
  | platform (deny : List DenyRange)
  /-- The next steps are those of the `k`-th other instance (R159). -/
  | select (k : Nat)
  /-- The `rst` input of the selected instance and of its core (R160, R161).  While an output block is being written,
  `part` of its byte writes come before the reset; `any` are the values of racing bytes. -/
  | reset (part : Nat) (any : Block)
  deriving DecidableEq, Repr

/-- One controller instance with its cipher core. -/
structure Ctl where
  /-- `REG_BASE`, by which an instance is known (R6, R159); its width is the model's (notes/assumptions/24). -/
  regBase : HostAddr
  /-- `CTRL.DIR`: 1 encrypts (R17). -/
  dir : Bool
  /-- `CTRL.IE` (R17). -/
  ie : Bool
  /-- `STATUS.DONE` (R18). -/
  done : Bool
  /-- `STATUS.WBUSY` (R18). -/
  wbusy : Bool
  /-- `STATUS.STATE`, the sequencer state (R29). -/
  seq : SeqState
  /-- The hidden phase `ph` (R31). -/
  ph : Phase
  /-- `ERRCODE.CODE` (R19). -/
  err : ErrCode
  /-- `BLKCNT` (R20). -/
  blkcnt : Word
  /-- `LENGTH` (R21). -/
  length : Word
  /-- `SRC_ADDR` (R22). -/
  srcAddr : Addr
  /-- `DST_ADDR` (R23). -/
  dstAddr : Addr
  /-- `KEY_LEN` (R24). -/
  keyLen : Word
  /-- `KEY0` to `KEY7` (R25). -/
  key : Vector Word 8
  /-- `IV0` to `IV7` (R26). -/
  iv : Vector Word 8
  /-- The working chaining half `WX` (R32). -/
  wx : Block
  /-- The working chaining half `WY` (R32). -/
  wy : Block
  /-- The input latch `IN` (R33). -/
  inBlk : Block
  /-- The output latch `OUT` (R33). -/
  outBlk : Block
  /-- `oracle_open` (R34). -/
  oracleOpen : Bool
  /-- `core_pending` (R35). -/
  corePending : Bool
  /-- The request on the core port that the core has not yet answered (R35, R65). -/
  coreReq : Option CoreWord
  /-- The one-place response slot `core_resp` (R35, R68). -/
  coreResp : Option CoreResp
  /-- The `irq` output (R36). -/
  irq : Bool
  /-- The core's `cv`: the variant of the last OPEN, if not released (R109). -/
  cv : Option Variant
  /-- The core's `ck`: the key of the last SET_KEY, if not released (R109). -/
  ck : Option (List Byte)
  /-- The MODEL's own: the free values the core's answering step uses (R115, notes/assumptions/4). -/
  draw : CoreDraw
  /-- The MODEL's own: what the host register port answered last (R14). -/
  hostResp : HostResponse
  /-- The MODEL's own: what races with this instance's transforms (R54, R55, notes/assumptions/7). -/
  race : Races
  deriving DecidableEq, Repr

/-- System memory (R40): the bytes that do not read as `Config.unlistedByte`, by strictly rising address. -/
abbrev Memory := List Host.Cell

/-- The machine: one selected controller, the platform's other controllers (R159), system memory, what the
platform refuses (`MemOk`), and the schedule of the agents' next steps (R11, R151). -/
structure State where
  /-- The selected controller instance and its core: the one whose steps, core answers and reset come next. -/
  ctl : Ctl
  /-- The other controller instances: `INSTANCES` is one more than their number (R6, R159). -/
  others : List Ctl
  /-- The contents of system memory (R40). -/
  mem : Memory
  /-- The ranges at which `MemOk` is false (R46, notes/assumptions/3). -/
  deny : List DenyRange
  /-- The MODEL's own: the byte the host's last read of system memory returned (R40). -/
  memResp : Option Byte
  /-- The MODEL's own: the steps the agents take next, in order (R11, notes/assumptions/2). -/
  inbox : List Event
  deriving DecidableEq, Repr

/-- The block `00*16` (R8). -/
def zeroBlock : Block := Vector.replicate 16 0#8

/-- A controller instance right after reset (R160), its window at `base`.  `cv` and `ck` are released and the
port's response is `idle`: DESIGN CHOICE, notes/assumptions/8. -/
def Ctl.atReset (base : HostAddr) : Ctl :=
  { regBase := base
    dir := false
    ie := false
    done := false
    wbusy := false
    seq := .idle
    ph := .none
    err := .none
    blkcnt := 0#32
    length := 0#32
    srcAddr := 0#32
    dstAddr := 0#32
    keyLen := 0#32
    key := Vector.replicate 8 0#32
    iv := Vector.replicate 8 0#32
    wx := zeroBlock
    wy := zeroBlock
    inBlk := zeroBlock
    outBlk := zeroBlock
    oracleOpen := false
    corePending := false
    coreReq := none
    coreResp := none
    irq := false
    cv := none
    ck := none
    draw := ⟨true, zeroBlock, Vector.replicate 31 0#8⟩
    hostResp := .idle
    race := .none }

/-- The machine right after reset (R160): one instance, nothing in memory, nothing scheduled.  The values of
`regBase`, `others`, `mem`, `deny` and of the model's own fields are DESIGN CHOICES: notes/assumptions/1 to 8. -/
def State.reset : State :=
  { ctl := Ctl.atReset 0#32
    others := []
    mem := []
    deny := []
    memResp := none
    inbox := [] }

end Sys2Proof.Machine
end

