-- ==== Sys2Proof/Machine/Flags.lean ====
section
/-! DEFINITION. The `STATUS` flags, the words the control registers read as, and the `irq` line
(spec/10_state.md R17 to R20, R29, R30, R36; spec/43_host_interface.md R122 to R126). -/

namespace Sys2Proof.Machine

/-- The number of a sequencer state (R29). -/
def SeqState.bits : SeqState → BitVec 3
  | .idle => 0#3
  | .validating => 1#3
  | .setup => 2#3
  | .processing => 3#3
  | .closing => 4#3
  | .completed => 5#3
  | .failed => 6#3

/-- The number of a result code (R144). -/
def ErrCode.bits : ErrCode → BitVec 4
  | .none => 0#4
  | .invalidLength => 1#4
  | .invalidKeyLength => 2#4
  | .oracleSetupFailure => 3#4
  | .blockOperationFailure => 4#4
  | .memoryAccessFailure => 5#4

/-- The sequencer states that count as BUSY (R30). -/
def SeqState.busy : SeqState → Bool
  | .idle => false
  | .validating => true
  | .setup => true
  | .processing => true
  | .closing => true
  | .completed => false
  | .failed => false

/-- `BUSY` (R30). -/
def Ctl.busy (c : Ctl) : Bool :=
  c.seq.busy

/-- The transform the instance is running, if any (R30). -/
def Ctl.running (c : Ctl) : List BufferWindow :=
  if c.busy then c.race.window.toList else []

/-- What `CTRL` reads as: `{29'b0, IE, DIR, 1'b0}` (R122). -/
def Ctl.ctrlWord (c : Ctl) : Word :=
  0#29 ++ BitVec.ofBool c.ie ++ BitVec.ofBool c.dir ++ 0#1

/-- What `STATUS` reads as: `{25'b0, STATE[2:0], 1'b0, WBUSY, DONE, BUSY}` (R124). -/
def Ctl.statusWord (c : Ctl) : Word :=
  0#25 ++ c.seq.bits ++ 0#1 ++ BitVec.ofBool c.wbusy ++ BitVec.ofBool c.done ++ BitVec.ofBool c.busy

/-- What `ERRCODE` reads as: `{28'b0, CODE}` (R126). -/
def Ctl.errWord (c : Ctl) : Word :=
  0#28 ++ c.err.bits

/-- The W1C bits of `STATUS`: bit 1 clears `DONE`, bit 2 clears `WBUSY`, every other bit is ignored (R125). -/
def Ctl.clearFlags (d : Word) (c : Ctl) : Ctl :=
  { c with done := c.done && !d.getLsbD 1, wbusy := c.wbusy && !d.getLsbD 2 }

/-- `irq <- CTRL.IE AND STATUS.DONE` (R36, R120). -/
def Ctl.refreshIrq (c : Ctl) : Ctl :=
  { c with irq := c.ie && c.done }

end Sys2Proof.Machine
end

