-- ==== Sys2Proof/WellFormed.lean ====
section
/-! DEFINITION. What the encodings admit of an operation (spec/30_encoding.md R65, R67; spec/00_scope.md R5). -/

namespace Sys2Proof

/-- A key length the hardware accepts: 16, 24 or 32 bytes, and no other (R5). -/
def keyLengthOk (n : Nat) : Bool :=
  n == 16 || n == 24 || n == 32

/-- An operation the encodings of R64 and R65 admit.  Register numbers and write data fit their fields by type;
SET_KEY carries 16, 24 or 32 key bytes and 0 in every higher byte of `data` (R65, R70). -/
def Instr.wellFormed : Instr → Bool
  | .rdCtrl => true
  | .wrCtrl _ => true
  | .rdStatus => true
  | .wrStatus _ => true
  | .rdErrcode => true
  | .wrErrcode _ => true
  | .rdBlkcnt => true
  | .wrBlkcnt _ => true
  | .rdLength => true
  | .wrLength _ => true
  | .rdSrc => true
  | .wrSrc _ => true
  | .rdDst => true
  | .wrDst _ => true
  | .rdKeylen => true
  | .wrKeylen _ => true
  | .rdKey _ => true
  | .wrKey _ _ => true
  | .rdIv _ => true
  | .wrIv _ _ => true
  | .rdRsvd _ => true
  | .wrRsvd _ _ => true
  | .coreOpen _ => true
  | .coreSetKey key => keyLengthOk key.klen.toNat && (key.data.toList.drop key.klen.toNat).all (· == 0#8)
  | .coreEnc _ => true
  | .coreDec _ => true
  | .coreClose => true

end Sys2Proof
end

