-- ==== Sys2Proof/Decode.lean ====
section
/-! DEFINITION. The decoder of the host port and of the cipher-core port, total on any word, and the encoder
(spec/30_encoding.md R62 to R75). -/

namespace Sys2Proof

/-! ### Host access words (R63, R64) -/

/-- One row of the table of R64: an access word `A` with `A & mask = pattern` is the operation `build n d`, where
`n = A[4:2]` and `d` is the write data. -/
structure HostRow where
  mask : BitVec 8
  pattern : BitVec 8
  build : Fin 8 → Word → Instr

/-- The rows of R64 whose pattern fixes all eight bits: the registers at offsets 0x00 to 0x1C. -/
def controlRows : List HostRow :=
  [ ⟨0xFF#8, 0x00#8, fun _ _ => .rdCtrl⟩,    ⟨0xFF#8, 0x80#8, fun _ d => .wrCtrl d⟩,
    ⟨0xFF#8, 0x04#8, fun _ _ => .rdStatus⟩,  ⟨0xFF#8, 0x84#8, fun _ d => .wrStatus d⟩,
    ⟨0xFF#8, 0x08#8, fun _ _ => .rdErrcode⟩, ⟨0xFF#8, 0x88#8, fun _ d => .wrErrcode d⟩,
    ⟨0xFF#8, 0x0C#8, fun _ _ => .rdBlkcnt⟩,  ⟨0xFF#8, 0x8C#8, fun _ d => .wrBlkcnt d⟩,
    ⟨0xFF#8, 0x10#8, fun _ _ => .rdLength⟩,  ⟨0xFF#8, 0x90#8, fun _ d => .wrLength d⟩,
    ⟨0xFF#8, 0x14#8, fun _ _ => .rdSrc⟩,     ⟨0xFF#8, 0x94#8, fun _ d => .wrSrc d⟩,
    ⟨0xFF#8, 0x18#8, fun _ _ => .rdDst⟩,     ⟨0xFF#8, 0x98#8, fun _ d => .wrDst d⟩,
    ⟨0xFF#8, 0x1C#8, fun _ _ => .rdKeylen⟩,  ⟨0xFF#8, 0x9C#8, fun _ d => .wrKeylen d⟩ ]

/-- The rows of R64 with a register number in `A[4:2]`: the key, IV and reserved offsets 0x20 to 0x7C. -/
def indexedRows : List HostRow :=
  [ ⟨0xE3#8, 0x20#8, fun n _ => .rdKey n⟩,   ⟨0xE3#8, 0xA0#8, fun n d => .wrKey n d⟩,
    ⟨0xE3#8, 0x40#8, fun n _ => .rdIv n⟩,    ⟨0xE3#8, 0xC0#8, fun n d => .wrIv n d⟩,
    ⟨0xE3#8, 0x60#8, fun r _ => .rdRsvd r⟩,  ⟨0xE3#8, 0xE0#8, fun r d => .wrRsvd r d⟩ ]

/-- All 22 rows of R64. -/
def hostRows : List HostRow := controlRows ++ indexedRows

/-- Whether an access word matches a row. -/
def HostRow.covers (r : HostRow) (a : BitVec 8) : Bool :=
  a &&& r.mask == r.pattern

/-- The field `A[4:2]` of an access word. -/
def accessIndex (a : BitVec 8) : Fin 8 :=
  (a.extractLsb' 2 3).toFin

/-- The host port's decoder (R63).  Every row fixes `A[1:0] = 00`, so an access word that no row covers is one
with `A[1:0] != 00`, which names no register. -/
def decodeHost (w : HostWord) : Except DecodeError Instr :=
  match hostRows.find? (fun r => r.covers w.access) with
  | some r => .ok (r.build (accessIndex w.access) w.data)
  | none => .error .noRegister

/-- An access word of R63: `W` in bit 7 and the offset below it. -/
def accessWord (write : Bool) (offset : BitVec 7) : BitVec 8 :=
  BitVec.ofBool write ++ offset

/-- The access word of an indexed row of R64 for register number `n`. -/
def indexedAccess (pattern : BitVec 8) (n : Fin 8) : BitVec 8 :=
  pattern ||| (BitVec.ofNat 8 (4 * n.val))

/-! ### Cipher-core requests (R65 to R67, R70, R72) -/

/-- The `variant` field of R67. -/
def Variant.bits : Variant → BitVec 2
  | .v128 => 0b00#2
  | .v192 => 0b01#2
  | .v256 => 0b10#2

/-- The variant a `variant` field names; 11 is reserved (R67). -/
def variantOfBits (b : BitVec 2) : Option Variant :=
  if b = 0b00#2 then some .v128
  else if b = 0b01#2 then some .v192
  else if b = 0b10#2 then some .v256
  else none

/-- Key bytes as the `data` field: byte `j` at bits `8j+7:8j`, 0 in every higher byte (R70). -/
def keyData (key : List Byte) : Vector Byte 32 :=
  Vector.ofFn fun j => key.getD j.val 0#8

/-- A block as the `data` field: byte `k` at bits `8k+7:8k`, `data[255:128] = 0` (R72). -/
def blockData (b : Block) : Vector Byte 32 :=
  Vector.ofFn fun j => b.toList.getD j.val 0#8

/-- The block in `data[127:0]` (R72). -/
def dataBlock (data : Vector Byte 32) : Block :=
  Vector.ofFn fun k => data.get (k.castLE (by decide))

/-- The OPEN request with a `variant` field; the fields that mean nothing for it are sent as 0 (R65, R110). -/
def openRequest (variant : BitVec 2) : CoreWord :=
  ⟨0b000#3, variant, 0#6, Vector.replicate 32 0#8⟩

/-- The SET_KEY request with its two fields; `variant` is sent as 0 (R65, R111). -/
def setKeyWord (key : KeyFields) : CoreWord :=
  ⟨0b001#3, 0#2, key.klen, key.data⟩

/-- The SET_KEY request that carries a key: `klen` is the number of key bytes (R65, R70, R93). -/
def setKeyRequest (key : List Byte) : CoreWord :=
  setKeyWord ⟨BitVec.ofNat 6 key.length, keyData key⟩

/-- The ENC request (R65, R72, R112). -/
def encRequest (b : Block) : CoreWord :=
  ⟨0b010#3, 0#2, 0#6, blockData b⟩

/-- The DEC request (R65, R72, R113). -/
def decRequest (b : Block) : CoreWord :=
  ⟨0b011#3, 0#2, 0#6, blockData b⟩

/-- The CLOSE request (R65, R114). -/
def closeRequest : CoreWord :=
  ⟨0b100#3, 0#2, 0#6, Vector.replicate 32 0#8⟩

/-- The core port's decoder (R65, R66).  A field that means nothing for an op is ignored (R65); every `klen` of
SET_KEY is read (R111; notes/assumptions/12); reserved ops and variants are rejected by name (R74). -/
def decodeCore (q : CoreWord) : Except DecodeError Instr :=
  match q.op.toNat with
  | 0 =>
    match variantOfBits q.variant with
    | some v => .ok (.coreOpen v)
    | none => .error .reservedVariant
  | 1 => .ok (.coreSetKey ⟨q.klen, q.data⟩)
  | 2 => .ok (.coreEnc (dataBlock q.data))
  | 3 => .ok (.coreDec (dataBlock q.data))
  | 4 => .ok .coreClose
  | _ => .error .reservedOp

/-- The decoder: the port decides the format (R62, R75). -/
def decode : Encoded → Except DecodeError Instr
  | .host w => decodeHost w
  | .core q => decodeCore q

/-! ### The encoder -/

/-- The words of an operation, from the tables of R63 to R66.  A read's write data is sent as 0. -/
def encode : Instr → Encoded
  | .rdCtrl => .host ⟨0x00#8, 0⟩
  | .wrCtrl d => .host ⟨0x80#8, d⟩
  | .rdStatus => .host ⟨0x04#8, 0⟩
  | .wrStatus d => .host ⟨0x84#8, d⟩
  | .rdErrcode => .host ⟨0x08#8, 0⟩
  | .wrErrcode d => .host ⟨0x88#8, d⟩
  | .rdBlkcnt => .host ⟨0x0C#8, 0⟩
  | .wrBlkcnt d => .host ⟨0x8C#8, d⟩
  | .rdLength => .host ⟨0x10#8, 0⟩
  | .wrLength d => .host ⟨0x90#8, d⟩
  | .rdSrc => .host ⟨0x14#8, 0⟩
  | .wrSrc d => .host ⟨0x94#8, d⟩
  | .rdDst => .host ⟨0x18#8, 0⟩
  | .wrDst d => .host ⟨0x98#8, d⟩
  | .rdKeylen => .host ⟨0x1C#8, 0⟩
  | .wrKeylen d => .host ⟨0x9C#8, d⟩
  | .rdKey n => .host ⟨indexedAccess 0x20#8 n, 0⟩
  | .wrKey n d => .host ⟨indexedAccess 0xA0#8 n, d⟩
  | .rdIv n => .host ⟨indexedAccess 0x40#8 n, 0⟩
  | .wrIv n d => .host ⟨indexedAccess 0xC0#8 n, d⟩
  | .rdRsvd r => .host ⟨indexedAccess 0x60#8 r, 0⟩
  | .wrRsvd r d => .host ⟨indexedAccess 0xE0#8 r, d⟩
  | .coreOpen v => .core (openRequest v.bits)
  | .coreSetKey key => .core (setKeyWord key)
  | .coreEnc b => .core (encRequest b)
  | .coreDec b => .core (decRequest b)
  | .coreClose => .core closeRequest

/-! ### Words as numbers, bit 0 the least significant (R62, V22) -/

/-- The number whose byte `k` (bits `8k+7:8k`) is the `k`-th of the list. -/
def packBytes : List Byte → Nat
  | [] => 0
  | b :: bs => b.toNat + 256 * packBytes bs

/-- The lowest `n` bytes of a number, byte 0 first. -/
def unpackBytes : Nat → Nat → List Byte
  | 0, _ => []
  | n + 1, w => BitVec.ofNat 8 w :: unpackBytes n (w / 256)

/-- The 267-bit number of a request: `op<<264 | variant<<262 | klen<<256 | data` (R65). -/
def CoreWord.toNat (q : CoreWord) : Nat :=
  packBytes (q.data.toList ++ [q.variant ++ q.klen, q.op.setWidth 8])

/-- The request a 267-bit number encodes (R65); bits above 266 do not exist and are not read. -/
def CoreWord.ofNat (w : Nat) : CoreWord :=
  let bytes := unpackBytes 34 w
  ⟨(bytes.getD 33 0#8).extractLsb' 0 3, (bytes.getD 32 0#8).extractLsb' 6 2,
    (bytes.getD 32 0#8).extractLsb' 0 6, Vector.ofFn fun k => bytes.getD k.val 0#8⟩

/-- The 129-bit number of a response: `ok<<128 | data` (R62, R68). -/
def CoreResp.toNat (r : CoreResp) : Nat :=
  packBytes (r.data.toList ++ [(BitVec.ofBool r.ok).setWidth 8])

/-- The response a 129-bit number encodes (R68, R72); bits above 128 do not exist and are not read. -/
def CoreResp.ofNat (w : Nat) : CoreResp :=
  let bytes := unpackBytes 17 w
  ⟨(bytes.getD 16 0#8).getLsbD 0, Vector.ofFn fun k => bytes.getD k.val 0#8⟩

/-- The number of an access word and its data: the access word is bits 7:0, the write data bits 39:8. -/
def HostWord.toNat (w : HostWord) : Nat :=
  w.access.toNat + 256 * w.data.toNat

/-- The access word and data a 40-bit number encodes. -/
def HostWord.ofNat (w : Nat) : HostWord :=
  ⟨BitVec.ofNat 8 w, BitVec.ofNat 32 (w / 256)⟩

/-- How many bits, in whole bytes, an encoded operation has: 8 access bits and 32 data bits, or 267 bits. -/
def Encoded.nbits : Encoded → Nat
  | .host _ => 40
  | .core _ => 272

/-- The number of an encoded operation, bit 0 the least significant. -/
def Encoded.toNat : Encoded → Nat
  | .host w => w.toNat
  | .core q => q.toNat

/-- The words that `nbits` bits `w` are: the table's HOST rows have 8 bits (40 with the write data), its CORE rows
267 bits.  The port decides the format (R62), and the row's length stands for the port here. -/
def Encoded.ofTableWord (nbits w : Nat) : Encoded :=
  if nbits ≤ 40 then .host (HostWord.ofNat w) else .core (CoreWord.ofNat w)

/-- The operation the decoder reads from the bits of an opcode-table row. -/
def decodeTableWord (nbits w : Nat) : Option Instr :=
  match decode (Encoded.ofTableWord nbits w) with
  | .ok i => some i
  | .error _ => none

end Sys2Proof
end

