-- ==== Sys2Proof/Machine/BlockOps.lean ====
section
/-! DEFINITION. The datapath as pure functions on blocks (spec/40_block_ops.md R77 to R82).  The cipher is a
parameter here: `enc` stands for `E` and `dec` for `D` of R7. -/

namespace Sys2Proof.Machine

/-- `xor16(a, b)`: lane `k` is `a[k] XOR b[k]` (R77). -/
def xor16 (a b : Block) : Block :=
  Vector.ofFn fun k => a.get k ^^^ b.get k

/-- The chaining pair: `x` holds the last plaintext block, `y` the last ciphertext block (R32, R84). -/
structure Chain where
  x : Block
  y : Block
  deriving DecidableEq, Repr

/-- What one chaining step returns: the output block and the next chaining pair (R78, R79). -/
structure StepResult where
  out : Block
  next : Chain
  deriving DecidableEq, Repr

/-- `EncStep(v, k, X, Y, P)` (R78), `enc` being `E(v, k, ·)`. -/
def encStep (enc : Block → Block) (c : Chain) (p : Block) : StepResult :=
  let t := xor16 p c.y
  let r := enc t
  let out := xor16 r c.x
  ⟨out, ⟨p, out⟩⟩

/-- `DecStep(v, k, X, Y, C)` (R79), `dec` being `D(v, k, ·)`. -/
def decStep (dec : Block → Block) (c : Chain) (b : Block) : StepResult :=
  let t := xor16 b c.x
  let r := dec t
  let out := xor16 r c.y
  ⟨out, ⟨out, b⟩⟩

/-- What a whole message leaves: the output blocks in order and the final chaining pair. -/
structure RunResult where
  outs : List Block
  last : Chain
  deriving DecidableEq, Repr

/-- A chaining step over each block in order, each using the pair the one before produced (R80, R81). -/
def chainRun (f : Chain → Block → StepResult) : Chain → List Block → RunResult
  | c, [] => ⟨[], c⟩
  | c, b :: bs =>
    let r := f c b
    let rest := chainRun f r.next bs
    ⟨r.out :: rest.outs, rest.last⟩

/-- `CommitIV(dir, n, iv, X_n, Y_n)` (R82): an encryption of at least one block commits, anything else keeps the
pair it started from. -/
def commitChain (encrypt : Bool) (n : Nat) (iv last : Chain) : Chain :=
  if encrypt && n != 0 then last else iv

/-- What a transform of a whole message returns: the output blocks and the IV after it. -/
structure TransformResult where
  outs : List Block
  iv : Chain
  deriving DecidableEq, Repr

/-- `IgeEnc(v, k, iv, P_1..P_n)` (R80). -/
def igeEnc (enc : Block → Block) (iv : Chain) (ps : List Block) : TransformResult :=
  let r := chainRun (encStep enc) iv ps
  ⟨r.outs, commitChain true ps.length iv r.last⟩

/-- `IgeDec(v, k, iv, C_1..C_n)` (R81): the IV is returned unchanged. -/
def igeDec (dec : Block → Block) (iv : Chain) (cs : List Block) : TransformResult :=
  let r := chainRun (decStep dec) iv cs
  ⟨r.outs, commitChain false cs.length iv r.last⟩

end Sys2Proof.Machine
end

