-- ==== Sys2Proof/Machine/Operands.lean ====
section
/-! DEFINITION. How every operand is assembled from registers, latches and addresses
(spec/30_encoding.md R67, R69 to R73; spec/20_memory.md R42, R43, R49). -/

namespace Sys2Proof.Machine

/-- `byte_k(w) = w[8k+7:8k]` (R9). -/
def byteOf (w : Word) (k : Nat) : Byte :=
  w.extractLsb' (8 * k) 8

/-- The word whose byte `k` is the `k`-th of four bytes (R9, R42). -/
def wordOfBytes (b0 b1 b2 b3 : Byte) : Word :=
  b3 ++ b2 ++ b1 ++ b0

/-- Byte `j` (0..31) of eight registers: `byte_(j mod 4)` of register `j div 4` (R42, R70, R71). -/
def registerByte (regs : Vector Word 8) (j : Fin 32) : Byte :=
  byteOf (regs.get ⟨j.val / 4, by omega⟩) (j.val % 4)

/-- The 32 bytes of eight registers. -/
def registerBytes (regs : Vector Word 8) : List Byte :=
  List.ofFn (registerByte regs)

/-- Bytes 0..15 of eight registers, as a block. -/
def lowHalf (regs : Vector Word 8) : Block :=
  Vector.ofFn fun k => registerByte regs ⟨k.val, by omega⟩

/-- Bytes 16..31 of eight registers, as a block. -/
def highHalf (regs : Vector Word 8) : Block :=
  Vector.ofFn fun k => registerByte regs ⟨16 + k.val, by omega⟩

/-- The four bytes of a block at `4m .. 4m+3`, as a register word (R42). -/
def blockWord (b : Block) (m : Fin 4) : Word :=
  wordOfBytes (b.get ⟨4 * m.val, by omega⟩) (b.get ⟨4 * m.val + 1, by omega⟩)
    (b.get ⟨4 * m.val + 2, by omega⟩) (b.get ⟨4 * m.val + 3, by omega⟩)

/-- The eight registers whose bytes 0..15 are `low` and 16..31 are `high` (R42, R102). -/
def halvesToRegs (low high : Block) : Vector Word 8 :=
  Vector.ofFn fun w =>
    if h : w.val < 4 then blockWord low ⟨w.val, h⟩ else blockWord high ⟨w.val - 4, by omega⟩

/-- The chaining pair the IV registers hold: `Y` is bytes 0..15 and `X` bytes 16..31 (R26, R71). -/
def Ctl.ivChain (c : Ctl) : Chain :=
  ⟨highHalf c.iv, lowHalf c.iv⟩

/-- The working chaining pair (R32). -/
def Ctl.chain (c : Ctl) : Chain :=
  ⟨c.wx, c.wy⟩

/-- The block count `n = LENGTH[31:4]` (R69). -/
def Ctl.nBlocks (c : Ctl) : Word :=
  c.length >>> 4

/-- Whether the length is a whole number of blocks: `LENGTH[3:0] = 0` (R69). -/
def Ctl.lengthValid (c : Ctl) : Bool :=
  c.length.extractLsb' 0 4 == 0#4

/-- Whether the whole 32-bit `KEY_LEN` is 16, 24 or 32 (R24, R90). -/
def Ctl.keyLenValid (c : Ctl) : Bool :=
  keyLengthOk c.keyLen.toNat

/-- `var(KEY_LEN)` (R67). -/
def variantOfKeyLen (n : Nat) : Option Variant :=
  if n = 16 then some .v128
  else if n = 24 then some .v192
  else if n = 32 then some .v256
  else none

/-- The `variant` field for a key length: 11, which is never sent, when none of the three is named (R67). -/
def variantField (n : Nat) : BitVec 2 :=
  match variantOfKeyLen n with
  | some v => v.bits
  | none => 0b11#2

/-- The key bytes `key[0 .. KEY_LEN-1]` that reach the core (R70, R93). -/
def Ctl.keyBytes (c : Ctl) : List Byte :=
  (registerBytes c.key).take c.keyLen.toNat

/-- `sel(c, a, b)`: `a` when `c = 1` and `b` when `c = 0` (R10). -/
def sel {α : Type} (c : Bool) (a b : α) : α :=
  if c then a else b

/-- The half xor-ed before the core: `WY` to encrypt, `WX` to decrypt (R73). -/
def Ctl.preHalf (c : Ctl) : Block :=
  sel c.dir c.wy c.wx

/-- The half xor-ed after the core: `WX` to encrypt, `WY` to decrypt (R73). -/
def Ctl.postHalf (c : Ctl) : Block :=
  sel c.dir c.wx c.wy

/-- The block `T` sent to the core (R96). -/
def Ctl.cipherInput (c : Ctl) : Block :=
  xor16 c.inBlk c.preHalf

/-- The address of byte `k` of the block that starts at `base`, modulo 2^32 (R49). -/
def byteAddr (base : Addr) (k : Fin 16) : Addr :=
  base + BitVec.ofNat 32 k.val

/-- The address of input block `j = BLKCNT + 1`: `SRC_ADDR + 16*(j-1)`, modulo 2^32 (R43, R49, R95). -/
def Ctl.inputAddr (c : Ctl) : Addr :=
  c.srcAddr + 16#32 * c.blkcnt

/-- The address of output block `j = BLKCNT + 1`: `DST_ADDR + 16*(j-1)`, modulo 2^32 (R43, R49, R98). -/
def Ctl.outputAddr (c : Ctl) : Addr :=
  c.dstAddr + 16#32 * c.blkcnt

/-- The offset of a host access in an instance's window (R39).  That the difference is taken modulo 2^32 is a DESIGN
CHOICE, notes/assumptions/24: R49 speaks of memory addresses only. -/
def Ctl.offsetOf (c : Ctl) (a : HostAddr) : HostAddr :=
  a - c.regBase

end Sys2Proof.Machine
end

