-- ==== Sys2Proof/Machine/Ops.lean ====
section
/-! DEFINITION. The shared operations: system memory and races (spec/20_memory.md), the answers of the host port
(spec/43_host_interface.md), the acceptance of START, the failure path and the commit (spec/41_sequencer.md), the
core's answers (spec/42_cipher_port.md) and reset (spec/70_reset_and_hazards.md). -/

namespace Sys2Proof.Machine

/-! ### System memory -/

/-- The byte an address holds. -/
def memGet : Memory → Nat → Byte
  | [], _ => Config.unlistedByte
  | (b, v) :: rest, a => if b = a then v else memGet rest a

/-- The memory in which address `a` holds `v` and every other address what it held. -/
def memPut : Memory → Nat → Byte → Memory
  | [], a, v => if v = Config.unlistedByte then [] else [(a, v)]
  | (b, w) :: rest, a, v =>
    if a < b then (if v = Config.unlistedByte then (b, w) :: rest else (a, v) :: (b, w) :: rest)
    else if a = b then (if v = Config.unlistedByte then rest else (a, v) :: rest)
    else (b, w) :: memPut rest a v

/-- The canonical form: addresses of 32 bits, strictly rising, and no byte listed that reads so unlisted. -/
def Memory.wf : Memory → Bool
  | [] => true
  | (a, v) :: rest =>
    decide (a < 2 ^ 32) && v != Config.unlistedByte && rest.all (fun e => decide (a < e.1)) && Memory.wf rest

/-- The byte of system memory at an address (R40). -/
def State.byteAt (s : State) (a : Addr) : Byte :=
  memGet s.mem a.toNat

/-- `MemOk(a, kind)`: whether the platform accepts the byte access (R46). -/
def State.memOk (s : State) (a : Addr) (kind : AccessKind) : Bool :=
  !s.deny.any fun r => r.kind == kind && decide (r.base ≤ a.toNat) && decide (a.toNat < r.base + r.bytes)

/-! ### Races between the agents (R54, R55, R159, R164) -/

/-- Whether an address lies in the `bytes` bytes from `base`, modulo 2^32 (R49). -/
def inRange (base : Addr) (bytes : Nat) (a : Addr) : Bool :=
  decide ((a - base).toNat < bytes)

/-- Whether an address lies in the input or output range of a transform. -/
def BufferWindow.covers (w : BufferWindow) (a : Addr) : Bool :=
  inRange w.src w.bytes a || inRange w.dst w.bytes a

/-- Whether a transform has written the byte: its output bytes are written in increasing address (R46, R52). -/
def BufferWindow.wrote (w : BufferWindow) (a : Addr) : Bool :=
  inRange w.dst w.written a

/-- The transforms of an instance that were started and whose end the host has not acquired (R54). -/
def Ctl.unacquired (c : Ctl) : List BufferWindow :=
  c.race.window.toList ++ c.race.earlier

/-- Whether an address lies in the ranges of a transform whose end the host has not acquired. -/
def Ctl.covers (c : Ctl) (a : Addr) : Bool :=
  c.unacquired.any (·.covers a)

/-- Whether a transform whose end the host has not acquired has written the byte. -/
def Ctl.hasWritten (c : Ctl) (a : Addr) : Bool :=
  c.unacquired.any (·.wrote a)

/-- Another agent writes the byte: noted when it lies in the ranges of the running transform (R55). -/
def Ctl.markForeign (a : Addr) (c : Ctl) : Ctl :=
  if c.running.any (·.covers a) && !c.race.foreign.contains a.toNat then
    { c with race := { c.race with foreign := a.toNat :: c.race.foreign } }
  else c

/-- The transform has written `n` more bytes of its output. -/
def Ctl.noteWritten (n : Nat) (c : Ctl) : Ctl :=
  { c with race := { c.race with window := c.race.window.map fun w => { w with written := w.written + n } } }

/-- The transforms that the other instances are running (R159). -/
def State.runningElsewhere (s : State) : List BufferWindow :=
  s.others.flatMap Ctl.running

/-- Whether the selected controller's access to a byte races: another agent wrote the byte since START (R55), or it
lies in the ranges of another instance that is running or was running at START (R159). -/
def State.contested (s : State) (a : Addr) : Bool :=
  s.ctl.race.foreign.contains a.toNat || (s.ctl.race.rivals ++ s.runningElsewhere).any (·.covers a)

/-! ### The memory port (R46) -/

/-- `MemRead(a, 1)`: `none` is `fail`.  A racing byte reads as `any` (R55). -/
def State.readByte (s : State) (a : Addr) (any : Byte) : Option Byte :=
  if s.memOk a .read then some (if s.contested a then any else s.byteAt a) else none

/-- The sixteen byte reads from `base` in increasing position, stopping at the first refused one (R46). -/
def State.readBytes (s : State) (base : Addr) (any : Block) : List (Fin 16) → Option (List Byte)
  | [] => some []
  | k :: ks =>
    match s.readByte (byteAddr base k) (any.get k) with
    | none => none
    | some v =>
      match s.readBytes base any ks with
      | none => none
      | some vs => some (v :: vs)

/-- The positions 0..15 of a block, in order. -/
def blockPositions : List (Fin 16) :=
  [0, 1, 2, 3, 4, 5, 6, 7, 8, 9, 10, 11, 12, 13, 14, 15]

/-- The block whose byte `k` is the `k`-th of the list. -/
def blockOfList (bs : List Byte) : Block :=
  Vector.ofFn fun k => bs.getD k.val 0#8

/-- `MemRead(base, 16)` (R46). -/
def State.readBlock (s : State) (base : Addr) (any : Block) : Option Block :=
  match s.readBytes base any blockPositions with
  | none => none
  | some bs => some (blockOfList bs)

/-- `MemWrite(a, 1, v)` once accepted: the byte holds `v`, or `any` where the write races, and the other instances
whose ranges hold the byte note it (R46, R55). -/
def State.putByte (s : State) (a : Addr) (v any : Byte) : State :=
  { s with
    mem := memPut s.mem a.toNat (if s.contested a then any else v)
    others := s.others.map (Ctl.markForeign a) }

/-- The byte writes of `MemWrite(base, 16, blk)` at the listed positions in order (R46).  The flag says whether all
were accepted; at the first refused one the bytes before it stay written. -/
def State.writeBytes (s : State) (base : Addr) (blk any : Block) : List (Fin 16) → State × Bool
  | [] => (s, true)
  | k :: ks =>
    if s.memOk (byteAddr base k) .write then
      (s.putByte (byteAddr base k) (blk.get k) (any.get k)).writeBytes base blk any ks
    else (s, false)

/-- How many of the byte writes at the listed positions are accepted before one is refused (R46). -/
def State.acceptedWrites (s : State) (base : Addr) (ks : List (Fin 16)) : Nat :=
  (ks.takeWhile fun k => s.memOk (byteAddr base k) .write).length

/-- `MemWrite(base, 16, blk)` (R46). -/
def State.writeBlock (s : State) (base : Addr) (blk any : Block) : State × Bool :=
  s.writeBytes base blk any blockPositions

/-! ### The host port (R48, R120, R121) -/

/-- The selected instance changed by `f`, everything else kept. -/
def State.mapCtl (f : Ctl → Ctl) (s : State) : State :=
  { s with ctl := f s.ctl }

/-- The port's answer, and the interrupt line recomputed at the end of the access (R36, R120). -/
def Ctl.answer (r : HostResponse) (c : Ctl) : Ctl :=
 { c with hostResp := r }.refreshIrq

/-- A host read: the word `w` of the controller is returned and no register changes (R48, R120). -/
def hostRead (w : Ctl → Word) (s : State) : Outcome State :=
  .next (s.mapCtl fun c => c.answer (.data (w c)))

/-- A host write: the effect `f` on the registers, then the port's acknowledgement (R120). -/
def hostWrite (f : Ctl → Ctl) (s : State) : Outcome State :=
  .next (s.mapCtl fun c => (f c).answer .ack)

/-- A refused host access: a slave error, and no state changes (R44, R120). -/
def slaveError (s : State) : Outcome State :=
  .next (s.mapCtl fun c => c.answer .slaveError)

/-- A write to a configuration register: while BUSY it only sets `WBUSY`, otherwise it has the effect `f` (R121). -/
def Ctl.configWrite (f : Ctl → Ctl) (c : Ctl) : Ctl :=
  if c.busy then { c with wbusy := true } else f c

/-- The host's acquire point: a `STATUS` read that returns `DONE = 1` settles every transform the instance was given
(R54, R164). -/
def Ctl.acquire (c : Ctl) : Ctl :=
  if c.done then { c with race := .none } else c

/-! ### START, failure and commit -/

/-- The acceptance of START (R89).  The window of the transform opens: from here to the acquire the host must not
touch the two ranges of `16*n` bytes (R54, R164).  A transform whose end the host has not acquired keeps its own
window; `rivals` are the transforms the other instances are running (R159). -/
def Ctl.acceptStart (rivals : List BufferWindow) (c : Ctl) : Ctl :=
  { c with
    done := false
    err := .none
    blkcnt := 0#32
    wy := c.ivChain.y
    wx := c.ivChain.x
    ph := .none
    seq := .validating
    race := ⟨some ⟨c.srcAddr, c.dstAddr, 16 * c.nBlocks.toNat, 0⟩, c.unacquired, [], rivals⟩ }

/-- `Fail(code)`, the hardware's trap entry (R99, R152).  Only the code is saved; there is no saved program counter,
no mode and no vector.  The core is released first when it is open, and the transform ends in FAILED.  There is no
return from it: the host reads `ERRCODE` and starts again (R154). -/
def Ctl.fail (code : ErrCode) (c : Ctl) : Ctl :=
  if c.oracleOpen then { c with err := code, seq := .closing, ph := .close }
  else { c with err := code, seq := .failed, ph := .none, done := true }

/-- `Commit()`: an encryption of at least one block writes `Y_n` to IV bytes 0..15 and `X_n` to bytes 16..31
(R82, R102). -/
def Ctl.commit (c : Ctl) : Ctl :=
  if c.dir && c.nBlocks != 0#32 then { c with iv := halvesToRegs c.wy c.wx } else c

/-! ### The cipher-core port (R35, R108) -/

/-- `CoreReq(...)`: the request goes out, `core_pending <- 1`, and the controller waits in `wait` (R10, R91). -/
def Ctl.sendRequest (q : CoreWord) (wait : Phase) (c : Ctl) : Ctl :=
  { c with coreReq := some q, corePending := true, ph := wait }

/-- `core_pending <- 0; consume response` (R92). -/
def Ctl.consume (c : Ctl) : Ctl :=
  { c with corePending := false, coreResp := none }

/-- The core's answer to the pending request goes into the slot (R108). -/
def Ctl.coreAnswer (ok : Bool) (data : Block) (c : Ctl) : Ctl :=
  { c with coreReq := none, coreResp := some ⟨ok, data⟩ }

/-- The key that a SET_KEY request hands over: bytes `0 .. klen-1` of `data` (R111).  The bytes that a `klen` above 32
asks for and `data` does not hold are free values (DESIGN CHOICE, notes/assumptions/12). -/
def requestKey (key : KeyFields) (tail : Vector Byte 31) : List Byte :=
  (key.data.toList ++ tail.toList).take key.klen.toNat

/-- The data of an ENC or DEC response: the block function under `(cv, ck)` applied to `t` when `ok`, any block
otherwise (R112, R113).  A core that has no variant or no key gives any block: the controller never asks it
(R116, spec/93 I20; notes/assumptions/9). -/
def Ctl.cipherData (f : Variant → List Byte → Block → Block) (c : Ctl) (t : Block) : Block :=
  if c.draw.ok then
    match c.cv, c.ck with
    | some v, some k => f v k t
    | _, _ => c.draw.any
  else c.draw.any

/-! ### Reset and the platform -/

/-- The `rst` input (R160, R161): the whole controller and its core take their reset values.  `REG_BASE` is a
parameter and system memory belongs to the memory agent, so neither changes.  The boot sequence of R162 starts
afresh, so nothing races with an abandoned transform (notes/assumptions/7). -/
def Ctl.rst (c : Ctl) : Ctl :=
  Ctl.atReset c.regBase

/-- What a reset leaves of the block write it falls into: the first `part` byte writes, as far as they are accepted,
stay written, "up to a part of one block" (R161).  A reset at any other time leaves memory as it is. -/
def State.abandonWrite (part : Nat) (any : Block) (s : State) : State :=
  if s.ctl.seq = .processing ∧ s.ctl.ph = .write then
    (s.writeBytes s.ctl.outputAddr s.ctl.outBlk any (blockPositions.take part)).1
  else s

/-- The reset event of the selected instance (R160, R161). -/
def State.resetStep (part : Nat) (any : Block) (s : State) : State :=
  (s.abandonWrite part any).mapCtl Ctl.rst

/-- The `k`-th other instance becomes the selected one; nothing happens when there is none (R159). -/
def State.select (k : Nat) (s : State) : State :=
  match s.others[k]? with
  | none => s
  | some c => { s with ctl := c, others := s.others.set k s.ctl }

/-- The host writes a byte of system memory (R40).  A byte that a transform has written too holds any value (R55),
and the instances whose running transform's ranges hold the byte note the write. -/
def State.hostStore (a : Addr) (v any : Byte) (s : State) : State :=
  { s with
    mem := memPut s.mem a.toNat (if (s.ctl :: s.others).any (·.hasWritten a) then any else v)
    ctl := s.ctl.markForeign a
    others := s.others.map (Ctl.markForeign a) }

/-- The host reads a byte of system memory (R40); a byte in the ranges of a transform whose end it has not acquired
reads as any value (R55, R164). -/
def State.hostLoad (a : Addr) (any : Byte) (s : State) : State :=
  { s with memResp := some (if (s.ctl :: s.others).any (·.covers a) then any else s.byteAt a) }

end Sys2Proof.Machine
end

