-- ==== Sys2Proof/Machine/CorePort.lean ====
section
/-! DEFINITION. The meanings of the five cipher-core requests: the core's answering step
(spec/42_cipher_port.md R110 to R114).  `ok` is the draw `CoreOk` of this response (R115). -/

namespace Sys2Proof.Machine

/-- `OPEN` (R110): on success the core is set to the variant.  The response's data is any block (spec/93 I3). -/
def execCoreOpen (v : Variant) (s : State) : Outcome State :=
  .next (s.mapCtl fun c =>
    ({ c with cv := if c.draw.ok then some v else c.cv }.coreAnswer c.draw.ok c.draw.any).refreshIrq)

/-- `SET_KEY` (R111): on success the core holds the key bytes.  The response's data is any block (spec/93 I3). -/
def execCoreSetKey (key : KeyFields) (s : State) : Outcome State :=
  .next (s.mapCtl fun c =>
    ({ c with ck := if c.draw.ok then some (requestKey key c.draw.keyTail) else c.ck }.coreAnswer
      c.draw.ok c.draw.any).refreshIrq)

/-- `ENC` (R112): the response's data is `E(cv, ck, T)` on success and any block otherwise. -/
def execCoreEnc (t : Block) (s : State) : Outcome State :=
  .next (s.mapCtl fun c => (c.coreAnswer c.draw.ok (c.cipherData Config.E t)).refreshIrq)

/-- `DEC` (R113): the response's data is `D(cv, ck, T)` on success and any block otherwise. -/
def execCoreDec (t : Block) (s : State) : Outcome State :=
  .next (s.mapCtl fun c => (c.coreAnswer c.draw.ok (c.cipherData Config.D t)).refreshIrq)

/-- `CLOSE` (R114): the core releases `(cv, ck)`; the response is any `ok` and any data. -/
def execCoreClose (s : State) : Outcome State :=
  .next (s.mapCtl fun c =>
    ({ c with cv := none, ck := none }.coreAnswer c.draw.ok c.draw.any).refreshIrq)

end Sys2Proof.Machine
end

