-- ==== Sys2Proof/Machine/HostReads.lean ====
section
/-! DEFINITION. The meanings of the eleven `RD_` operations of the host port (spec/43_host_interface.md R122 to R141). -/

namespace Sys2Proof.Machine

/-- `RD_CTRL` (R122): `START` reads 0. -/
def execRdCtrl (s : State) : Outcome State :=
  hostRead Ctl.ctrlWord s

/-- `RD_STATUS` (R124).  A read that returns `DONE = 1` is the host's acquire point (R54); it clears no flag. -/
def execRdStatus (s : State) : Outcome State :=
  .next (s.mapCtl fun c => c.acquire.answer (.data c.statusWord))

/-- `RD_ERRCODE` (R126). -/
def execRdErrcode (s : State) : Outcome State :=
  hostRead Ctl.errWord s

/-- `RD_BLKCNT` (R128). -/
def execRdBlkcnt (s : State) : Outcome State :=
  hostRead (·.blkcnt) s

/-- `RD_LENGTH` (R129). -/
def execRdLength (s : State) : Outcome State :=
  hostRead (·.length) s

/-- `RD_SRC` (R131). -/
def execRdSrc (s : State) : Outcome State :=
  hostRead (·.srcAddr) s

/-- `RD_DST` (R133). -/
def execRdDst (s : State) : Outcome State :=
  hostRead (·.dstAddr) s

/-- `RD_KEYLEN` (R135). -/
def execRdKeylen (s : State) : Outcome State :=
  hostRead (·.keyLen) s

/-- `RD_KEYn` (R137): 0 for every `n` and every key. -/
def execRdKey (_n : Fin 8) (s : State) : Outcome State :=
  hostRead (fun _ => 0#32) s

/-- `RD_IVn` (R139): the architectural value, also during a transform. -/
def execRdIv (n : Fin 8) (s : State) : Outcome State :=
  hostRead (·.iv.get n) s

/-- `RD_RSVD` (R141): 0, with no slave error. -/
def execRdRsvd (_r : Fin 8) (s : State) : Outcome State :=
  hostRead (fun _ => 0#32) s

end Sys2Proof.Machine
end

