-- ==== Sys2Proof/Machine/HostWrites.lean ====
section
/-! DEFINITION. The meanings of the eleven `WR_` operations of the host port (spec/43_host_interface.md R121 to R141). -/

namespace Sys2Proof.Machine

/-- The effect of a `CTRL` write while not BUSY: `DIR` and `IE` are set, then a START is accepted (R89, R123). -/
def Ctl.writeCtrl (rivals : List BufferWindow) (d : Word) (c : Ctl) : Ctl :=
  let set := { c with dir := d.getLsbD 1, ie := d.getLsbD 2 }
  if d.getLsbD 0 then set.acceptStart rivals else set

/-- `WR_CTRL` (R123). -/
def execWrCtrl (d : Word) (s : State) : Outcome State :=
  hostWrite (Ctl.configWrite (Ctl.writeCtrl s.runningElsewhere d)) s

/-- `WR_STATUS` (R125): legal while BUSY. -/
def execWrStatus (d : Word) (s : State) : Outcome State :=
  hostWrite (Ctl.clearFlags d) s

/-- `WR_ERRCODE` (R127): accepted and dropped; it does not set `WBUSY`. -/
def execWrErrcode (_d : Word) (s : State) : Outcome State :=
  hostWrite id s

/-- `WR_BLKCNT` (R127): accepted and dropped; it does not set `WBUSY`. -/
def execWrBlkcnt (_d : Word) (s : State) : Outcome State :=
  hostWrite id s

/-- `WR_LENGTH` (R130). -/
def execWrLength (d : Word) (s : State) : Outcome State :=
  hostWrite (Ctl.configWrite fun c => { c with length := d }) s

/-- `WR_SRC` (R132). -/
def execWrSrc (d : Word) (s : State) : Outcome State :=
  hostWrite (Ctl.configWrite fun c => { c with srcAddr := d }) s

/-- `WR_DST` (R134). -/
def execWrDst (d : Word) (s : State) : Outcome State :=
  hostWrite (Ctl.configWrite fun c => { c with dstAddr := d }) s

/-- `WR_KEYLEN` (R136): any value is held; validation compares it at START. -/
def execWrKeylen (d : Word) (s : State) : Outcome State :=
  hostWrite (Ctl.configWrite fun c => { c with keyLen := d }) s

/-- `WR_KEYn` (R138). -/
def execWrKey (n : Fin 8) (d : Word) (s : State) : Outcome State :=
  hostWrite (Ctl.configWrite fun c => { c with key := c.key.set n.val d n.isLt }) s

/-- `WR_IVn` (R140). -/
def execWrIv (n : Fin 8) (d : Word) (s : State) : Outcome State :=
  hostWrite (Ctl.configWrite fun c => { c with iv := c.iv.set n.val d n.isLt }) s

/-- `WR_RSVD` (R141): ignored; it does not set `WBUSY`. -/
def execWrRsvd (_r : Fin 8) (_d : Word) (s : State) : Outcome State :=
  hostWrite id s

end Sys2Proof.Machine
end

