-- ==== Sys2Proof/Machine/Dispatch.lean ====
section
/-! DEFINITION. One arm per operation of spec/opcode_table.json. -/

namespace Sys2Proof.Machine

/-- What each operation does. -/
def exec (i : Instr) (s : State) : Host.Outcome State Fault Refusal :=
  match i with
  | .rdCtrl => Sys2Proof.Machine.execRdCtrl s
  | .wrCtrl d => Sys2Proof.Machine.execWrCtrl d s
  | .rdStatus => Sys2Proof.Machine.execRdStatus s
  | .wrStatus d => Sys2Proof.Machine.execWrStatus d s
  | .rdErrcode => Sys2Proof.Machine.execRdErrcode s
  | .wrErrcode d => Sys2Proof.Machine.execWrErrcode d s
  | .rdBlkcnt => Sys2Proof.Machine.execRdBlkcnt s
  | .wrBlkcnt d => Sys2Proof.Machine.execWrBlkcnt d s
  | .rdLength => Sys2Proof.Machine.execRdLength s
  | .wrLength d => Sys2Proof.Machine.execWrLength d s
  | .rdSrc => Sys2Proof.Machine.execRdSrc s
  | .wrSrc d => Sys2Proof.Machine.execWrSrc d s
  | .rdDst => Sys2Proof.Machine.execRdDst s
  | .wrDst d => Sys2Proof.Machine.execWrDst d s
  | .rdKeylen => Sys2Proof.Machine.execRdKeylen s
  | .wrKeylen d => Sys2Proof.Machine.execWrKeylen d s
  | .rdKey n => Sys2Proof.Machine.execRdKey n s
  | .wrKey n d => Sys2Proof.Machine.execWrKey n d s
  | .rdIv n => Sys2Proof.Machine.execRdIv n s
  | .wrIv n d => Sys2Proof.Machine.execWrIv n d s
  | .rdRsvd r => Sys2Proof.Machine.execRdRsvd r s
  | .wrRsvd r d => Sys2Proof.Machine.execWrRsvd r d s
  | .coreOpen v => Sys2Proof.Machine.execCoreOpen v s
  | .coreSetKey key => Sys2Proof.Machine.execCoreSetKey key s
  | .coreEnc b => Sys2Proof.Machine.execCoreEnc b s
  | .coreDec b => Sys2Proof.Machine.execCoreDec b s
  | .coreClose => Sys2Proof.Machine.execCoreClose s

end Sys2Proof.Machine
end

