-- ==== Sys2Proof/Machine/Sequencer.lean ====
section
/-! DEFINITION. The controller's own steps: validation, core setup, the per-block loop, release and commit
(spec/41_sequencer.md R88 to R102). -/

namespace Sys2Proof.Machine

/-- The validation step (R90): the length is checked before the key length (R150). -/
def Ctl.validate (c : Ctl) : Ctl :=
  if !c.lengthValid then c.fail .invalidLength
  else if !c.keyLenValid then c.fail .invalidKeyLength
  else { c with seq := .setup, ph := .openReq }

/-- Issue OPEN for the variant of the key length (R91). -/
def Ctl.issueOpen (c : Ctl) : Ctl :=
  c.sendRequest (openRequest (variantField c.keyLen.toNat)) .openWait

/-- Take the OPEN response (R92). -/
def Ctl.takeOpen (r : CoreResp) (c : Ctl) : Ctl :=
  if r.ok then { c.consume with oracleOpen := true, ph := .key }
  else c.consume.fail .oracleSetupFailure

/-- Issue SET_KEY with the first `KEY_LEN` key bytes (R93). -/
def Ctl.issueSetKey (c : Ctl) : Ctl :=
  c.sendRequest (setKeyRequest c.keyBytes) .keyWait

/-- Take the SET_KEY response (R94): with no block to process the core is closed at once. -/
def Ctl.takeSetKey (r : CoreResp) (c : Ctl) : Ctl :=
  if !r.ok then c.consume.fail .oracleSetupFailure
  else if c.nBlocks = 0#32 then { c.consume with seq := .closing, ph := .close }
  else { c.consume with seq := .processing, ph := .fetch }

/-- Fetch input block `j` into `IN` (R95). -/
def State.fetch (any : Block) (s : State) : State :=
  match s.readBlock s.ctl.inputAddr any with
  | none => s.mapCtl (Ctl.fail .memoryAccessFailure)
  | some b => s.mapCtl fun c => { c with inBlk := b, ph := .cipher }

/-- First XOR, then the cipher request for block `j` (R96). -/
def Ctl.issueCipher (c : Ctl) : Ctl :=
  c.sendRequest (sel c.dir (encRequest c.cipherInput) (decRequest c.cipherInput)) .cipherWait

/-- Take the cipher response, then the second XOR (R97). -/
def Ctl.takeCipher (r : CoreResp) (c : Ctl) : Ctl :=
  if !r.ok then c.consume.fail .blockOperationFailure
  else { c.consume with outBlk := xor16 r.data c.postHalf, ph := .write }

/-- The chaining update and block count after a block's write has succeeded (R98): `WX` takes the plaintext and
`WY` the ciphertext. -/
def Ctl.finishBlock (c : Ctl) : Ctl :=
  let c' := { c.noteWritten 16 with
    wx := sel c.dir c.inBlk c.outBlk
    wy := sel c.dir c.outBlk c.inBlk
    blkcnt := c.blkcnt + 1#32 }
  if c'.blkcnt = c.nBlocks then { c' with seq := .closing, ph := .close } else { c' with ph := .fetch }

/-- Write output block `j` and update the chaining state (R98).  After a refused byte the bytes before it stay
written. -/
def State.writeOut (any : Block) (s : State) : State :=
  match s.writeBlock s.ctl.outputAddr s.ctl.outBlk any with
  | (t, false) =>
    t.mapCtl fun c => (c.fail .memoryAccessFailure).noteWritten (s.acceptedWrites s.ctl.outputAddr blockPositions)
  | (t, true) => t.mapCtl Ctl.finishBlock

/-- Issue CLOSE (R100). -/
def Ctl.issueClose (c : Ctl) : Ctl :=
  c.sendRequest closeRequest .closeWait

/-- Take the CLOSE response and terminate; its `ok` and `data` are ignored (R101). -/
def Ctl.takeClose (_r : CoreResp) (c : Ctl) : Ctl :=
  let c' := { c.consume with oracleOpen := false }
  if c.err = .none then { c'.commit with seq := .completed, ph := .none, done := true }
  else { c' with seq := .failed, ph := .none, done := true }

/-- A wait step: enabled only when the response slot is full (R35, R88). -/
def State.onResponse (f : CoreResp → Ctl → Ctl) (s : State) : State :=
  match s.ctl.coreResp with
  | none => s
  | some r => s.mapCtl (f r)

/-- The one step enabled for `STATE` and `ph`, as the table of R88 lists it; where it lists none, nothing happens. -/
def State.sequence (any : Block) (s : State) : State :=
  match s.ctl.seq with
  | .idle => s
  | .validating => if s.ctl.ph = .none then s.mapCtl Ctl.validate else s
  | .setup =>
    match s.ctl.ph with
    | .openReq => s.mapCtl Ctl.issueOpen
    | .openWait => s.onResponse Ctl.takeOpen
    | .key => s.mapCtl Ctl.issueSetKey
    | .keyWait => s.onResponse Ctl.takeSetKey
    | _ => s
  | .processing =>
    match s.ctl.ph with
    | .fetch => s.fetch any
    | .cipher => s.mapCtl Ctl.issueCipher
    | .cipherWait => s.onResponse Ctl.takeCipher
    | .write => s.writeOut any
    | _ => s
  | .closing =>
    match s.ctl.ph with
    | .close => s.mapCtl Ctl.issueClose
    | .closeWait => s.onResponse Ctl.takeClose
    | _ => s
  | .completed => s
  | .failed => s

/-- One controller step (R88), with the interrupt line recomputed after it (R36). -/
def State.controllerStep (any : Block) (s : State) : State :=
  (s.sequence any).mapCtl Ctl.refreshIrq

end Sys2Proof.Machine
end

