-- ==== Sys2Proof/Machine/Agents.lean ====
section
/-! DEFINITION. One step of each agent (spec/00_scope.md R11, spec/10_state.md R13): the host's access decoding
(spec/43_host_interface.md R120), the core's answer (spec/42_cipher_port.md R108), and the others. -/

namespace Sys2Proof.Machine

/-- The first line of R120: `size != 4 or off[1:0] != 00 or off > 0x7C`. -/
def accessRefused (size : Nat) (off : HostAddr) : Bool :=
  size != 4 || off.extractLsb' 0 2 != 0#2 || decide (off.toNat > Config.lastOffset)

/-- The access word and data of a host access whose offset is within the window (R63). -/
def hostWordOf (write : Bool) (off : HostAddr) (data : Word) : HostWord :=
  ⟨accessWord write (off.extractLsb' 0 7), data⟩

/-- One access to the registers of the selected instance (R120). -/
def registerAccess (acc : HostAccess) (s : State) : Outcome State :=
  let off := s.ctl.offsetOf acc.addr
  if accessRefused acc.size off then slaveError s
  else
    match decodeHost (hostWordOf acc.write off acc.data) with
    | .ok i => exec i s
    | .error _ => slaveError s

/-- Whether a host address lies in the 128-byte window of an instance (R38, R39).  A window at the top of the host's
space goes on at address 0: DESIGN CHOICE, notes/assumptions/24. -/
def Ctl.inWindow (c : Ctl) (a : HostAddr) : Bool :=
  decide ((c.offsetOf a).toNat < Config.windowBytes)

/-- Which other instance a host address belongs to, if it is not the selected one's (R159). -/
def State.instanceAt (s : State) (a : HostAddr) : Option Nat :=
  if s.ctl.inWindow a then none else s.others.findIdx? (·.inWindow a)

/-- A step taken by the `k`-th other instance while the selection stays as it is. -/
def State.atInstance (k : Nat) (f : State → Outcome State) (s : State) : Outcome State :=
  match f (s.select k) with
  | .next t => .next (t.select k)
  | .fault e => .fault e
  | .refused r => .refused r

/-- One host register access: the instance in whose window the address lies takes it (R39, R159).  An address in no
window is refused by the selected instance (notes/assumptions/5). -/
def hostStep (acc : HostAccess) (s : State) : Outcome State :=
  match s.instanceAt acc.addr with
  | none => registerAccess acc s
  | some k => s.atInstance k (registerAccess acc)

/-- Whether the core has a request to answer: one is pending and the slot is empty (R35, R108). -/
def Ctl.coreEnabled (c : Ctl) : Bool :=
  c.corePending && c.coreReq.isSome && c.coreResp.isNone

/-- The core answers the pending request with the free values `draw` (R108, R109, R115).  Without a pending request
the core has no move. -/
def coreStep (draw : CoreDraw) (s : State) : Outcome State :=
  if !s.ctl.coreEnabled then .next s
  else
    match s.ctl.coreReq with
    | none => .next s
    | some q =>
      match decodeCore q with
      | .ok i => exec i (s.mapCtl fun c => { c with draw := draw })
      | .error _ => .refused .reservedCoreRequest

/-- One step of one agent. -/
def runEvent (e : Event) (s : State) : Outcome State :=
  match e with
  | .host acc => hostStep acc s
  | .hostLoad a any => .next (s.hostLoad a any)
  | .hostStore a v any => .next (s.hostStore a v any)
  | .controller any => .next (s.controllerStep any)
  | .core draw => coreStep draw s
  | .platform deny => .next { s with deny := deny }
  | .select k => .next (s.select k)
  | .reset part any => .next (s.resetStep part any)

/-- The host access that carries an access word to the selected instance. -/
def accessOf (w : HostWord) (s : State) : HostAccess :=
  ⟨w.access.getLsbD 7, s.ctl.regBase + (w.access.extractLsb' 0 7).setWidth 32, 4, w.data⟩

/-- The state in which the next step is the host access of a word. -/
def State.placeHost (w : HostWord) (s : State) : State :=
  { s with inbox := .host (accessOf w s) :: s.inbox }

/-- The state in which the next step is the core's answer to a request, with the draw the state holds. -/
def State.placeCore (q : CoreWord) (s : State) : State :=
  { s with
    inbox := .core s.ctl.draw :: s.inbox
    ctl := { s.ctl with coreReq := some q, corePending := true, coreResp := none } }

/-- The state in which the next step takes an encoded operation from the port its format belongs to. -/
def State.place (w : Encoded) (s : State) : State :=
  match w with
  | .host w => s.placeHost w
  | .core q => s.placeCore q

end Sys2Proof.Machine
end

