-- ==== Sys2Proof/Machine/Step.lean ====
section
/-! DEFINITION. The step of the machine: the next agent's step (spec/00_scope.md R11, spec/60_exceptions.md R151). -/

namespace Sys2Proof.Machine

/-- One step: the first scheduled step of an agent is taken.  When nothing is scheduled no agent moves. -/
def step (s : State) : Host.Outcome State Fault Refusal :=
  match s.inbox with
  | [] => .next s
  | e :: rest => runEvent e { s with inbox := rest }

/-- The state whose next step takes the operation of an opcode-table row from its port: a HOST row as the host's
next access, a CORE row as the request the core answers next. -/
def State.withFetchWord (s : State) (nbits w : Nat) : State :=
  s.place (Encoded.ofTableWord nbits w)

end Sys2Proof.Machine
end

