-- ==== Sys2Proof/Safety.lean ====
section
/-! DEFINITION. What counts as a legal controller and a legal machine, in the terms the statements use
(spec/10_state.md R20, R28 to R36; spec/41_sequencer.md R88, R104, R106; spec/42_cipher_port.md R109, R116). -/

namespace Sys2Proof.Machine

/-- The combinations of `STATE` and `ph` that the table of R88 lists. -/
def phaseLegal : SeqState → Phase → Bool
  | .idle, p => p == .none
  | .validating, p => p == .none
  | .setup, p => p == .openReq || p == .openWait || p == .key || p == .keyWait
  | .processing, p => p == .fetch || p == .cipher || p == .cipherWait || p == .write
  | .closing, p => p == .close || p == .closeWait
  | .completed, p => p == .none
  | .failed, p => p == .none

/-- The phases in which the controller waits for a response (R88). -/
def Phase.waiting : Phase → Bool
  | .openWait => true
  | .keyWait => true
  | .cipherWait => true
  | .closeWait => true
  | _ => false

/-- When `oracle_open` is 1: from a successful OPEN response to the CLOSE response (R34). -/
def oracleExpected (q : SeqState) (p : Phase) : Bool :=
  match q with
  | .setup => p == .key || p == .keyWait
  | .processing => true
  | .closing => true
  | _ => false

/-- The request the controller is waiting on in a wait phase (R91, R93, R96, R100). -/
def Ctl.awaitedRequest (c : Ctl) : Option CoreWord :=
  match c.ph with
  | .openWait => some (openRequest (variantField c.keyLen.toNat))
  | .keyWait => some (setKeyRequest c.keyBytes)
  | .cipherWait => some (sel c.dir (encRequest c.cipherInput) (decRequest c.cipherInput))
  | .closeWait => some closeRequest
  | _ => none

/-- The sequencer states in which a validated configuration is in use (R90). -/
def SeqState.validated : SeqState → Bool
  | .setup => true
  | .processing => true
  | .closing => true
  | _ => false

/-- The sequencer states in which no failure has been recorded (R99, R101, R144). -/
def SeqState.clean : SeqState → Bool
  | .closing => false
  | .failed => false
  | _ => true

/-- The result codes a transform can have while the core is being released (R99, R145, R146). -/
def ErrCode.afterOpen : ErrCode → Bool
  | .invalidLength => false
  | .invalidKeyLength => false
  | _ => true

/-- The result codes of a transform that has processed no block (R145 to R147). -/
def ErrCode.beforeBlocks : ErrCode → Bool
  | .invalidLength => true
  | .invalidKeyLength => true
  | .oracleSetupFailure => true
  | _ => false

/-- A controller instance as its own rules keep it. -/
structure Ctl.Legal (c : Ctl) : Prop where
  /-- `ph` orders the steps within SETUP, PROCESSING and CLOSING and is NONE elsewhere (R31, R88). -/
  phase : phaseLegal c.seq c.ph = true
  /-- `irq` is `CTRL.IE AND STATUS.DONE` (R36). -/
  irqLine : c.irq = (c.ie && c.done)
  /-- While BUSY, `DONE` is 0 (R125). -/
  notDone : c.busy = true → c.done = false
  /-- `oracle_open` is 1 from a successful OPEN response to the CLOSE response (R34). -/
  oracle : c.oracleOpen = oracleExpected c.seq c.ph
  /-- `core_pending` is 1 exactly while the controller waits (R35). -/
  pending : c.corePending = c.ph.waiting
  /-- The slot is filled only while a request is pending (R35). -/
  slot : c.corePending = false → c.coreResp = none
  /-- The core holds the awaited request until it answers, and none at any other time (R35, R108). -/
  request : c.coreReq = if c.corePending && c.coreResp.isNone then c.awaitedRequest else none
  /-- Every request is sent for a validated configuration (R90, R91). -/
  config : c.seq.validated = true → c.lengthValid = true ∧ c.keyLenValid = true
  /-- `ERRCODE` is 0 until a failure, and nonzero in FAILED (R99, R101). -/
  cleanErr : c.seq.clean = true → c.err = .none
  failedErr : c.seq = .failed → c.err ≠ .none
  /-- A validation failure never reaches CLOSING (R90, R99). -/
  closingErr : c.seq = .closing → c.err.afterOpen = true
  /-- `BLKCNT` before the first block, and after a failure that processed none (R89, R145 to R147). -/
  countStart : c.seq = .validating ∨ c.seq = .setup ∨ c.err.beforeBlocks = true → c.blkcnt = 0#32
  /-- A block is in progress only below `n` (R98). -/
  countBlock : c.seq = .processing → c.blkcnt.toNat < c.nBlocks.toNat
  /-- A release without a failure comes after the last block (R94, R98). -/
  countDone : c.seq = .closing → c.err = .none → c.blkcnt = c.nBlocks
  /-- `BLKCNT` never exceeds 0x0FFFFFFF (R20). -/
  countMax : c.blkcnt.toNat ≤ 0x0FFFFFFF
  /-- While BUSY the window of the running transform is open over its two ranges (R54, R164). -/
  openWindow : c.busy = true →
    ∃ written, c.race.window = some ⟨c.srcAddr, c.dstAddr, 16 * c.nBlocks.toNat, written⟩

/-- A legal machine: every controller instance is legal. -/
def State.Legal (s : State) : Prop :=
  s.ctl.Legal ∧ ∀ c ∈ s.others, c.Legal

/-- The block function of the transform: `E` to encrypt, `D` to decrypt, under the variant of `KEY_LEN` and the
first `KEY_LEN` key bytes (R67, R73, R109). -/
def Ctl.blockFn (c : Ctl) (b : Block) : Block :=
  match variantOfKeyLen c.keyLen.toNat with
  | some v => sel c.dir (Config.E v c.keyBytes b) (Config.D v c.keyBytes b)
  | none => b

/-- The chaining step of the transform's direction, from a chaining pair (R78, R79). -/
def Ctl.chainStepFrom (c : Ctl) (p : Chain) (b : Block) : StepResult :=
  sel c.dir (encStep c.blockFn p b) (decStep c.blockFn p b)

/-- The chaining step of the transform from the working pair `WX`, `WY`. -/
def Ctl.chainStep (c : Ctl) (b : Block) : StepResult :=
  c.chainStepFrom c.chain b

/-- The core is set up for the transform, and what the datapath holds of its answers is the recurrence's
(R109, R116, R78, R79). -/
structure Ctl.Tracks (c : Ctl) : Prop where
  /-- After a successful OPEN answer the core's variant is that of `KEY_LEN` (R110). -/
  openAnswer : ∀ r, c.ph = .openWait → c.coreResp = some r → r.ok = true →
    c.cv = variantOfKeyLen c.keyLen.toNat
  /-- While the oracle is open and not being closed, it stays so (R116). -/
  opened : c.oracleOpen = true → c.ph ≠ .closeWait → c.cv = variantOfKeyLen c.keyLen.toNat
  /-- After a successful SET_KEY answer the core's key is the first `KEY_LEN` key bytes (R111). -/
  keyAnswer : ∀ r, c.ph = .keyWait → c.coreResp = some r → r.ok = true → c.ck = some c.keyBytes
  /-- No block is sent to a core that was not keyed in this transform (R116). -/
  keyed : c.seq = .processing → c.ck = some c.keyBytes
  /-- A successful answer to ENC or DEC is the block function of the block sent (R112, R113). -/
  cipherAnswer : ∀ r, c.ph = .cipherWait → c.coreResp = some r → r.ok = true →
    r.data = c.blockFn c.cipherInput
  /-- The block about to be written is the chaining step's output (R97). -/
  output : c.ph = .write → c.outBlk = (c.chainStep c.inBlk).out

/-- Every controller instance's core tracks its transform. -/
def State.Tracks (s : State) : Prop :=
  s.ctl.Tracks ∧ ∀ c ∈ s.others, c.Tracks

/-- Whether a controller step is enabled: BUSY, and the slot full in a wait phase (R88, R106). -/
def Ctl.enabled (c : Ctl) : Bool :=
  c.busy && (!c.ph.waiting || c.coreResp.isSome)

/-- The most controller steps a transform still takes (R106): `7 + 4n` at START. -/
def Ctl.stepsLeft (c : Ctl) : Nat :=
  let n := c.nBlocks.toNat
  let left := n - c.blkcnt.toNat
  match c.seq with
  | .idle => 0
  | .validating => 7 + 4 * n
  | .setup =>
    match c.ph with
    | .openReq => 6 + 4 * n
    | .openWait => 5 + 4 * n
    | .key => 4 + 4 * n
    | _ => 3 + 4 * n
  | .processing =>
    match c.ph with
    | .fetch => 2 + 4 * left
    | .cipher => 1 + 4 * left
    | .cipherWait => 4 * left
    | _ => 4 * left - 1
  | .closing =>
    match c.ph with
    | .close => 2
    | _ => 1
  | .completed => 0
  | .failed => 0

/-- The step of the selected controller that writes the IV: a CLOSE response consumed after a successful encryption
of at least one block (R101, R102). -/
def Ctl.commits (c : Ctl) : Bool :=
  c.seq == .closing && c.ph == .closeWait && c.coreResp.isSome && c.err == .none && c.dir && c.nBlocks != 0#32

/-- The sixteen addresses of a block. -/
def blockCovers (base : Addr) (a : Addr) : Prop :=
  ∃ k : Fin 16, a = byteAddr base k

/-- Whether an event is the `rst` input. -/
def Event.isReset : Event → Bool
  | .reset _ _ => true
  | _ => false

/-- Whether an event changes which instance is selected. -/
def Event.isSelect : Event → Bool
  | .select _ => true
  | _ => false

end Sys2Proof.Machine
end

