-- ==== Sys2Proof/Certificates/Slice0/Obligations.lean ====
section
/-! DEFINITION. What is to be proved of the machine, from the numbered rules of spec/. -/

open Sys2Proof Sys2Proof.Machine

/-! ### Encodings (spec/30_encoding.md) -/

/-- Decoding an encoded well-formed operation gives it back, with every operand at every value the encoding admits
(R63 to R67, R70, R72), and so does decoding the number its words are: 267 request bits (R65), or 8 access bits with
32 data bits above them.  The numbering of a HOST word with its data, and the length that tells the ports apart, are
the MODEL's (DESIGN CHOICE, notes/assumptions/18). -/
def Obligations.EncodedOperationDecodesBack : Prop :=
  ∀ i : Instr, i.wellFormed = true →
    decode (encode i) = .ok i ∧ decodeTableWord (encode i).nbits (encode i).toNat = some i

/-- R62, R65, R68, R72: where the fields of a request stand in its 267-bit number, where those of the core's response stand
in its 129-bit number (`ok` at bit 128, byte `k` of `data` at bits `8k+7:8k`), and that no bit of either is lost. -/
def Obligations.RequestFieldsStandAtTheirBits : Prop :=
  (∀ q : CoreWord,
    q.toNat >>> 264 = q.op.toNat ∧
    (q.toNat >>> 262) % 4 = q.variant.toNat ∧
    (q.toNat >>> 256) % 64 = q.klen.toNat ∧
    (∀ k : Fin 32, (q.toNat >>> (8 * k.val)) % 256 = (q.data.get k).toNat) ∧
    CoreWord.ofNat q.toNat = q) ∧
  (∀ r : CoreResp,
    r.toNat >>> 128 = (if r.ok = true then 1 else 0) ∧
    (∀ k : Fin 16, (r.toNat >>> (8 * k.val)) % 256 = (r.data.get k).toNat) ∧
    CoreResp.ofNat r.toNat = r)

/-- R64: every row of the host table, for every register number and write data; exactly one row matches an access
word with `A[1:0] = 00`, and none matches any other. -/
def Obligations.HostAccessTable : Prop :=
  (∀ d : Word,
    decodeHost ⟨0b00000000#8, d⟩ = .ok .rdCtrl ∧ decodeHost ⟨0b10000000#8, d⟩ = .ok (.wrCtrl d) ∧
    decodeHost ⟨0b00000100#8, d⟩ = .ok .rdStatus ∧ decodeHost ⟨0b10000100#8, d⟩ = .ok (.wrStatus d) ∧
    decodeHost ⟨0b00001000#8, d⟩ = .ok .rdErrcode ∧ decodeHost ⟨0b10001000#8, d⟩ = .ok (.wrErrcode d) ∧
    decodeHost ⟨0b00001100#8, d⟩ = .ok .rdBlkcnt ∧ decodeHost ⟨0b10001100#8, d⟩ = .ok (.wrBlkcnt d) ∧
    decodeHost ⟨0b00010000#8, d⟩ = .ok .rdLength ∧ decodeHost ⟨0b10010000#8, d⟩ = .ok (.wrLength d) ∧
    decodeHost ⟨0b00010100#8, d⟩ = .ok .rdSrc ∧ decodeHost ⟨0b10010100#8, d⟩ = .ok (.wrSrc d) ∧
    decodeHost ⟨0b00011000#8, d⟩ = .ok .rdDst ∧ decodeHost ⟨0b10011000#8, d⟩ = .ok (.wrDst d) ∧
    decodeHost ⟨0b00011100#8, d⟩ = .ok .rdKeylen ∧ decodeHost ⟨0b10011100#8, d⟩ = .ok (.wrKeylen d)) ∧
  (∀ (n : Fin 8) (d : Word),
    decodeHost ⟨0b001#3 ++ BitVec.ofNat 3 n.val ++ 0b00#2, d⟩ = .ok (.rdKey n) ∧
    decodeHost ⟨0b101#3 ++ BitVec.ofNat 3 n.val ++ 0b00#2, d⟩ = .ok (.wrKey n d) ∧
    decodeHost ⟨0b010#3 ++ BitVec.ofNat 3 n.val ++ 0b00#2, d⟩ = .ok (.rdIv n) ∧
    decodeHost ⟨0b110#3 ++ BitVec.ofNat 3 n.val ++ 0b00#2, d⟩ = .ok (.wrIv n d) ∧
    decodeHost ⟨0b011#3 ++ BitVec.ofNat 3 n.val ++ 0b00#2, d⟩ = .ok (.rdRsvd n) ∧
    decodeHost ⟨0b111#3 ++ BitVec.ofNat 3 n.val ++ 0b00#2, d⟩ = .ok (.wrRsvd n d)) ∧
  (∀ a : BitVec 8,
    (hostRows.filter fun r => r.covers a).length = if a.extractLsb' 0 2 = 0#2 then 1 else 0)

/-- R65, R66, R67, R74: what the core port's decoder reads from every `op`, for every value of every field;
a field that means nothing for an op is ignored (R65).  That SET_KEY is read at every `klen`, and that the reserved ops
and the reserved variant are rejected by name, is the MODEL's (notes/assumptions/12, 13). -/
def Obligations.CoreRequestTable : Prop :=
  ∀ (variant : BitVec 2) (klen : BitVec 6) (data : Vector Byte 32),
    decodeCore ⟨0b000#3, 0b00#2, klen, data⟩ = .ok (.coreOpen .v128) ∧
    decodeCore ⟨0b000#3, 0b01#2, klen, data⟩ = .ok (.coreOpen .v192) ∧
    decodeCore ⟨0b000#3, 0b10#2, klen, data⟩ = .ok (.coreOpen .v256) ∧
    decodeCore ⟨0b000#3, 0b11#2, klen, data⟩ = .error .reservedVariant ∧
    decodeCore ⟨0b001#3, variant, klen, data⟩ = .ok (.coreSetKey ⟨klen, data⟩) ∧
    decodeCore ⟨0b010#3, variant, klen, data⟩ = .ok (.coreEnc (dataBlock data)) ∧
    decodeCore ⟨0b011#3, variant, klen, data⟩ = .ok (.coreDec (dataBlock data)) ∧
    decodeCore ⟨0b100#3, variant, klen, data⟩ = .ok .coreClose ∧
    decodeCore ⟨0b101#3, variant, klen, data⟩ = .error .reservedOp ∧
    decodeCore ⟨0b110#3, variant, klen, data⟩ = .error .reservedOp ∧
    decodeCore ⟨0b111#3, variant, klen, data⟩ = .error .reservedOp

/-- A few words written out from the spec's own programs and vectors (P1, V22) decode to what they stand for.  A HOST
word stands with its write data in bits 39:8, which is the MODEL's numbering (DESIGN CHOICE, notes/assumptions/18). -/
def Obligations.SpecWordsDecode : Prop :=
  decodeTableWord 40 0x0000002090 = some (.wrLength 0x20#32) ∧
  decodeTableWord 40 0x03020100A0 = some (.wrKey 0 0x03020100#32) ∧
  decodeTableWord 40 0x1f1e1d1cDC = some (.wrIv 7 0x1f1e1d1c#32) ∧
  decodeTableWord 8 0x04 = some .rdStatus ∧
  decodeTableWord 8 0x06 = none ∧
  decodeTableWord 272 (0x0040 <<< 256) = some (.coreOpen .v192) ∧
  decodeTableWord 272 (0x0400 <<< 256) = some .coreClose ∧
  decodeTableWord 272 ((0x0200 <<< 256) + 0x0f0e0d0c0b0a09080706050403020100) =
    some (.coreEnc (Vector.ofFn fun k => BitVec.ofNat 8 k.val))

/-! ### The step (spec/00_scope.md R11, spec/43_host_interface.md R120) -/

/-- A host access that R120 does not refuse runs the operation its access word decodes to, at the instance in whose
window the address lies (R39, R159): the selected one, or another one while the selected one keeps its state.  The first
clause holds where another instance's window overlaps the selected one's too: that the selected instance is asked first
there is the MODEL's (DESIGN CHOICE, notes/assumptions/5).  That host addresses are 32 bits wide, and a window's offsets
taken modulo 2^32, is the MODEL's (notes/assumptions/24), as wherever a statement speaks of a host address. -/
def Obligations.HostAccessRunsDecodedOperation : Prop :=
  ∀ (s : State) (acc : HostAccess) (rest : List Event) (i : Instr), s.inbox = .host acc :: rest → acc.size = 4 →
    ((acc.addr - s.ctl.regBase).extractLsb' 0 2 = 0#2 → (acc.addr - s.ctl.regBase).toNat ≤ 0x7C →
      decodeHost ⟨BitVec.ofBool acc.write ++ (acc.addr - s.ctl.regBase).extractLsb' 0 7, acc.data⟩ = .ok i →
      step s = exec i { s with inbox := rest }) ∧
    (∀ (k : Nat) (c : Ctl), s.others[k]? = some c →
      128 ≤ (acc.addr - s.ctl.regBase).toNat →
      (∀ j d, j ≠ k → s.others[j]? = some d → 128 ≤ (acc.addr - d.regBase).toNat) →
      (acc.addr - c.regBase).extractLsb' 0 2 = 0#2 → (acc.addr - c.regBase).toNat ≤ 0x7C →
      decodeHost ⟨BitVec.ofBool acc.write ++ (acc.addr - c.regBase).extractLsb' 0 7, acc.data⟩ = .ok i →
      ∃ d : Ctl,
        exec i { s with inbox := rest, ctl := c, others := s.others.set k s.ctl } =
          .next { s with inbox := rest, ctl := d, others := s.others.set k s.ctl } ∧
        step s = .next { s with inbox := rest, others := s.others.set k d })

/-- The core's step runs the operation that the pending request decodes to, with the step's free values. -/
def Obligations.CoreStepRunsDecodedRequest : Prop :=
  ∀ (s : State) (draw : CoreDraw) (rest : List Event) (q : CoreWord) (i : Instr),
    s.inbox = .core draw :: rest →
    s.ctl.corePending = true → s.ctl.coreReq = some q → s.ctl.coreResp = none →
    decodeCore q = .ok i →
    step s = exec i { s with inbox := rest, ctl := { s.ctl with draw := draw } }

/-- The next step after `withFetchWord` runs the operation whose words were placed.  The whole placing device is the
MODEL's: the schedule and `withFetchWord` (notes/assumptions/2), the numbering of words (18), the draw that the state holds
(4), and the selected instance first where windows overlap (5); R11, R108 and R120 say which agent's step then runs. -/
def Obligations.PlacedWordRunsNext : Prop :=
  ∀ (i : Instr) (s : State), i.wellFormed = true →
    step (s.withFetchWord (encode i).nbits (encode i).toNat) =
      match encode i with
      | .host _ => exec i s
      | .core q =>
        exec i { s with ctl := { s.ctl with coreReq := some q, corePending := true, coreResp := none } }

/-- The steps of the other agents (R11, R40, R55, R88, R159).  A host store writes its one byte, which then holds `v`, or
any value where a transform whose end the host has not acquired has written it too; every other byte keeps its value,
and the instances whose running transform covers the byte note the write.  The MODEL's own are that an empty schedule
answers the same state and that steps are listed (notes/assumptions/2), the platform's step (3), that the host's memory
steps never fail (20) and leave `irq` alone (16), the selection (6), the note of races (7), and, in the clause on
`hostStore`, the canonical memory of entry 1. -/
def Obligations.OtherAgentsSteps : Prop :=
  ∀ (s : State) (rest : List Event),
    (s.inbox = [] → step s = .next s) ∧
    (∀ any, s.inbox = .controller any :: rest →
      step s = .next (State.controllerStep any { s with inbox := rest })) ∧
    (∀ a any, s.inbox = .hostLoad a any :: rest →
      step s = .next { s with
        inbox := rest
        memResp := some (if (s.ctl :: s.others).any (·.covers a) = true then any else s.byteAt a) }) ∧
    (∀ a v any, s.inbox = .hostStore a v any :: rest → s.mem.wf = true →
      ∃ t, step s = .next t ∧
        t.byteAt a = (if (s.ctl :: s.others).any (·.hasWritten a) = true then any else v) ∧
        (∀ b, b ≠ a → t.byteAt b = s.byteAt b) ∧
        t.others.length = s.others.length ∧
        t.inbox = rest ∧ t.deny = s.deny ∧ t.memResp = s.memResp ∧
        ∀ (k : Nat) (c d : Ctl), (s.ctl :: s.others)[k]? = some c → (t.ctl :: t.others)[k]? = some d →
          d = { c with race := { c.race with foreign := d.race.foreign } } ∧
          ∀ b, b ∈ d.race.foreign ↔
            b ∈ c.race.foreign ∨ b = a.toNat ∧ c.busy = true ∧ ∃ w, c.race.window = some w ∧
              ((a - w.src).toNat < w.bytes ∨ (a - w.dst).toNat < w.bytes)) ∧
    (∀ deny, s.inbox = .platform deny :: rest → step s = .next { s with inbox := rest, deny := deny }) ∧
    (∀ draw, s.inbox = .core draw :: rest → s.ctl.corePending = false ∨ s.ctl.coreResp.isSome = true →
      step s = .next { s with inbox := rest }) ∧
    (∀ k c, s.inbox = .select k :: rest → s.others[k]? = some c →
      step s = .next { s with inbox := rest, ctl := c, others := s.others.set k s.ctl }) ∧
    (∀ k, s.inbox = .select k :: rest → s.others[k]? = none → step s = .next { s with inbox := rest })

/-- R44: within a window, an access of another size, or at an offset that is no multiple of 4 or above 0x7C, ends in a
slave error of that window's instance and changes no register; every other access to a window, the selected instance's
or another's, runs an operation there.  That a slave error is a next state of the machine is the MODEL's
(notes/assumptions/10), and so are the 32 bits of host addresses (24) and the selected instance's part (5): it is asked
first where another window overlaps its own, which the first two clauses take in, and it refuses an address that lies in
no window. -/
def Obligations.RefusedAccessIsASlaveError : Prop :=
  ∀ (s : State) (acc : HostAccess) (rest : List Event), s.inbox = .host acc :: rest →
    let refused (c : Ctl) : Prop :=
      (acc.addr - c.regBase).toNat < 128 ∧
      (acc.size ≠ 4 ∨ (acc.addr - c.regBase).extractLsb' 0 2 ≠ 0#2 ∨ (acc.addr - c.regBase).toNat > 0x7C)
    let slaveError (c : Ctl) : Ctl := { c with hostResp := .slaveError, irq := c.ie && c.done }
    (refused s.ctl → step s = .next { s with inbox := rest, ctl := slaveError s.ctl }) ∧
    (acc.size = 4 → (acc.addr - s.ctl.regBase).extractLsb' 0 2 = 0#2 →
        (acc.addr - s.ctl.regBase).toNat ≤ 0x7C →
      ∃ i, step s = exec i { s with inbox := rest }) ∧
    (∀ (k : Nat) (c : Ctl), s.others[k]? = some c →
      128 ≤ (acc.addr - s.ctl.regBase).toNat →
      (∀ j d, j ≠ k → s.others[j]? = some d → 128 ≤ (acc.addr - d.regBase).toNat) →
      refused c →
      step s = .next { s with inbox := rest, others := s.others.set k (slaveError c) }) ∧
    (∀ (k : Nat) (c : Ctl), s.others[k]? = some c →
      128 ≤ (acc.addr - s.ctl.regBase).toNat →
      (∀ j d, j ≠ k → s.others[j]? = some d → 128 ≤ (acc.addr - d.regBase).toNat) →
      acc.size = 4 → (acc.addr - c.regBase).extractLsb' 0 2 = 0#2 → (acc.addr - c.regBase).toNat ≤ 0x7C →
      ∃ (i : Instr) (d : Ctl),
        exec i { s with inbox := rest, ctl := c, others := s.others.set k s.ctl } =
          .next { s with inbox := rest, ctl := d, others := s.others.set k s.ctl } ∧
        step s = .next { s with inbox := rest, others := s.others.set k d }) ∧
    (128 ≤ (acc.addr - s.ctl.regBase).toNat → (∀ c ∈ s.others, 128 ≤ (acc.addr - c.regBase).toNat) →
      step s = .next { s with inbox := rest, ctl := slaveError s.ctl })

/-! ### Host reads (spec/43_host_interface.md) -/

/-- R122, R126, R128, R129, R131, R133, R135, R137, R139: what each read returns; nothing but the port's answer and
the recomputed `irq` changes. -/
def Obligations.HostReadsReturnTheRegisters : Prop :=
  ∀ (s : State) (n : Fin 8),
    let back (w : Word) : Host.Outcome State Fault Refusal :=
      .next { s with ctl := { s.ctl with hostResp := .data w, irq := s.ctl.ie && s.ctl.done } }
    exec .rdCtrl s = back (0#29 ++ BitVec.ofBool s.ctl.ie ++ BitVec.ofBool s.ctl.dir ++ 0#1) ∧
    exec .rdErrcode s = back (0#28 ++ s.ctl.err.bits) ∧
    exec .rdBlkcnt s = back s.ctl.blkcnt ∧
    exec .rdLength s = back s.ctl.length ∧
    exec .rdSrc s = back s.ctl.srcAddr ∧
    exec .rdDst s = back s.ctl.dstAddr ∧
    exec .rdKeylen s = back s.ctl.keyLen ∧
    exec (.rdKey n) s = back 0#32 ∧
    exec (.rdIv n) s = back (s.ctl.iv.get n)

/-- R124: what `RD_STATUS` returns, and that it clears no flag.  A read that returns `DONE = 1` is the acquire point:
it ends the model's own note of the instance's transforms (R54; notes/assumptions/7). -/
def Obligations.StatusReadReturnsTheFlags : Prop :=
  ∀ s : State,
    exec .rdStatus s = .next { s with ctl := { s.ctl with
      hostResp := .data (0#25 ++ s.ctl.seq.bits ++ 0#1 ++ BitVec.ofBool s.ctl.wbusy ++
        BitVec.ofBool s.ctl.done ++ BitVec.ofBool s.ctl.busy)
      irq := s.ctl.ie && s.ctl.done
      race := if s.ctl.done then Races.none else s.ctl.race } }

/-- R29, R30, R144: the numbers of the sequencer states and of the result codes, and which states are BUSY. -/
def Obligations.StateAndCodeNumbers : Prop :=
  SeqState.idle.bits = 0 ∧ SeqState.validating.bits = 1 ∧ SeqState.setup.bits = 2 ∧
  SeqState.processing.bits = 3 ∧ SeqState.closing.bits = 4 ∧ SeqState.completed.bits = 5 ∧
  SeqState.failed.bits = 6 ∧
  (∀ q : SeqState, q.busy = true ↔ q = .validating ∨ q = .setup ∨ q = .processing ∨ q = .closing) ∧
  ErrCode.none.bits = 0 ∧ ErrCode.invalidLength.bits = 1 ∧ ErrCode.invalidKeyLength.bits = 2 ∧
  ErrCode.oracleSetupFailure.bits = 3 ∧ ErrCode.blockOperationFailure.bits = 4 ∧
  ErrCode.memoryAccessFailure.bits = 5

/-! ### Host writes (spec/43_host_interface.md, spec/41_sequencer.md R89) -/

/-- R123 and R89: a `CTRL` write while not BUSY sets `DIR` and `IE`; with `d[0] = 1` it starts a transform.  The model's
own note of races (notes/assumptions/7) opens a window over the two ranges, keeps those of earlier transforms that the
host has not acquired (R54), and takes over those that other instances are running (R159). -/
def Obligations.ControlWriteStartsATransform : Prop :=
  ∀ (s : State) (d : Word), s.ctl.busy = false →
    (d.getLsbD 0 = false →
      exec (.wrCtrl d) s = .next { s with ctl := { s.ctl with
        dir := d.getLsbD 1
        ie := d.getLsbD 2
        hostResp := .ack
        irq := d.getLsbD 2 && s.ctl.done } }) ∧
    (d.getLsbD 0 = true →
      exec (.wrCtrl d) s = .next { s with ctl := { s.ctl with
        dir := d.getLsbD 1
        ie := d.getLsbD 2
        done := false
        err := .none
        blkcnt := 0#32
        wy := lowHalf s.ctl.iv
        wx := highHalf s.ctl.iv
        ph := .none
        seq := .validating
        hostResp := .ack
        irq := false
        race := {
          window := some ⟨s.ctl.srcAddr, s.ctl.dstAddr, 16 * (s.ctl.length >>> 4).toNat, 0⟩
          earlier := s.ctl.race.window.toList ++ s.ctl.race.earlier
          foreign := []
          rivals := s.others.flatMap fun c => if c.busy = true then c.race.window.toList else [] } } })

/-- R130, R132, R134, R136, R138, R140: while not BUSY each write sets its register and nothing else but the port's
answer and the recomputed `irq`. -/
def Obligations.ConfigurationWritesSetTheirRegister : Prop :=
  ∀ (s : State) (n : Fin 8) (d : Word), s.ctl.busy = false →
    let set (c : Ctl) : Host.Outcome State Fault Refusal :=
      .next { s with ctl := { c with hostResp := .ack, irq := s.ctl.ie && s.ctl.done } }
    exec (.wrLength d) s = set { s.ctl with length := d } ∧
    exec (.wrSrc d) s = set { s.ctl with srcAddr := d } ∧
    exec (.wrDst d) s = set { s.ctl with dstAddr := d } ∧
    exec (.wrKeylen d) s = set { s.ctl with keyLen := d } ∧
    exec (.wrKey n d) s = set { s.ctl with key := s.ctl.key.set n.val d n.isLt } ∧
    exec (.wrIv n d) s = set { s.ctl with iv := s.ctl.iv.set n.val d n.isLt }

/-- R121: while BUSY a write to any configuration register, a START among them, changes no register and sets
`WBUSY`; a `STATUS` write still clears flags; the writes that are dropped at any time do not set `WBUSY`. -/
def Obligations.WritesWhileBusySetWbusy : Prop :=
  ∀ (s : State) (n : Fin 8) (d : Word), s.ctl.busy = true →
    (∀ i ∈ [Instr.wrCtrl d, .wrLength d, .wrSrc d, .wrDst d, .wrKeylen d, .wrKey n d, .wrIv n d],
      exec i s = .next { s with ctl := { s.ctl with
        wbusy := true, hostResp := .ack, irq := s.ctl.ie && s.ctl.done } }) ∧
    (∀ i ∈ [Instr.wrErrcode d, .wrBlkcnt d, .wrRsvd n d],
      exec i s = .next { s with ctl := { s.ctl with
        hostResp := .ack, irq := s.ctl.ie && s.ctl.done } }) ∧
    exec (.wrStatus d) s = .next { s with ctl := { s.ctl with
      done := s.ctl.done && !d.getLsbD 1
      wbusy := s.ctl.wbusy && !d.getLsbD 2
      hostResp := .ack
      irq := s.ctl.ie && (s.ctl.done && !d.getLsbD 1) } }

/-- R125: `d[1] = 1` clears `DONE`, `d[2] = 1` clears `WBUSY`, other bits are ignored, in every state. -/
def Obligations.StatusWriteClearsFlags : Prop :=
  ∀ (s : State) (d : Word),
    exec (.wrStatus d) s = .next { s with ctl := { s.ctl with
      done := if d.getLsbD 1 = true then false else s.ctl.done
      wbusy := if d.getLsbD 2 = true then false else s.ctl.wbusy
      hostResp := .ack
      irq := s.ctl.ie && (if d.getLsbD 1 = true then false else s.ctl.done) } }

/-- R127 and R141: writes to `ERRCODE`, `BLKCNT` and a reserved offset are accepted and dropped, without `WBUSY`, and
a reserved offset reads 0, in every state. -/
def Obligations.ReadOnlyAndReservedAccesses : Prop :=
  ∀ (s : State) (r : Fin 8) (d : Word),
    let answered (a : HostResponse) : Host.Outcome State Fault Refusal :=
      .next { s with ctl := { s.ctl with hostResp := a, irq := s.ctl.ie && s.ctl.done } }
    exec (.wrErrcode d) s = answered .ack ∧
    exec (.wrBlkcnt d) s = answered .ack ∧
    exec (.wrRsvd r d) s = answered .ack ∧
    exec (.rdRsvd r) s = answered (.data 0#32)

/-- R42: byte `j` of the key or IV stands in register `j div 4` at bits `8*(j mod 4)+7 : 8*(j mod 4)`, so a write of
register `n` sets exactly bytes `4n .. 4n+3`. -/
def Obligations.RegisterWriteSetsFourBytes : Prop :=
  ∀ (regs : Vector Word 8) (n : Fin 8) (d : Word) (j : Fin 32),
    registerByte (regs.set n.val d n.isLt) j =
      if j.val / 4 = n.val then d.extractLsb' (8 * (j.val % 4)) 8 else registerByte regs j

/-! ### The cipher core (spec/42_cipher_port.md) -/

/-- R110, R111, R114: a successful OPEN sets the core's variant, a successful SET_KEY its key, the first `klen` bytes of
`data`; a failed one neither.  CLOSE releases both.  The response carries the drawn `ok` and any block, for every draw
(I3 of spec/93; notes/assumptions/11).  The key bytes that a `klen` above 32 asks for and `data` does not hold are any
bytes: the MODEL's choice (notes/assumptions/12). -/
def Obligations.CoreLifecycleAnswers : Prop :=
  ∀ (s : State) (v : Variant) (klen : BitVec 6) (data : Vector Byte 32),
    let answered (c : Ctl) : Host.Outcome State Fault Refusal :=
      .next { s with ctl := { c with
        coreReq := none
        coreResp := some ⟨s.ctl.draw.ok, s.ctl.draw.any⟩
        irq := s.ctl.ie && s.ctl.done } }
    exec (.coreOpen v) s =
      answered { s.ctl with cv := if s.ctl.draw.ok = true then some v else s.ctl.cv } ∧
    (klen.toNat ≤ 32 → exec (.coreSetKey ⟨klen, data⟩) s =
      answered { s.ctl with
        ck := if s.ctl.draw.ok = true then some (data.toList.take klen.toNat) else s.ctl.ck }) ∧
    (32 < klen.toNat → exec (.coreSetKey ⟨klen, data⟩) s =
      answered { s.ctl with
        ck := if s.ctl.draw.ok = true then
            some (data.toList ++ s.ctl.draw.keyTail.toList.take (klen.toNat - 32))
          else s.ctl.ck }) ∧
    exec .coreClose s = answered { s.ctl with cv := none, ck := none }

/-- R112 and R113: the response of an opened and keyed core to ENC or DEC is `E(cv, ck, T)` or `D(cv, ck, T)` when
`ok`, and any block when not, for every draw.  A core that is not opened or not keyed answers any block: the
MODEL's choice (notes/assumptions/9), since the controller never asks one. -/
def Obligations.CoreCipherAnswers : Prop :=
  ∀ (s : State) (t : Block),
    (∀ v k, s.ctl.cv = some v → s.ctl.ck = some k →
      exec (.coreEnc t) s = .next { s with ctl := { s.ctl with
        coreReq := none
        coreResp := some ⟨s.ctl.draw.ok, if s.ctl.draw.ok = true then Config.E v k t else s.ctl.draw.any⟩
        irq := s.ctl.ie && s.ctl.done } } ∧
      exec (.coreDec t) s = .next { s with ctl := { s.ctl with
        coreReq := none
        coreResp := some ⟨s.ctl.draw.ok, if s.ctl.draw.ok = true then Config.D v k t else s.ctl.draw.any⟩
        irq := s.ctl.ie && s.ctl.done } }) ∧
    (s.ctl.cv = none ∨ s.ctl.ck = none →
      ∀ i ∈ [Instr.coreEnc t, .coreDec t],
        exec i s = .next { s with ctl := { s.ctl with
          coreReq := none
          coreResp := some ⟨s.ctl.draw.ok, s.ctl.draw.any⟩
          irq := s.ctl.ie && s.ctl.done } })

/-! ### Frames over all operations -/

/-- What no host operation and no core answer changes: system memory byte for byte, the other instances, the
platform's refusals, the schedule, the block latches, `oracle_open` and `core_pending`; and what only a `CTRL` write
changes: the sequencer's position, the working halves, `ERRCODE`, `BLKCNT`, `DIR` and `IE` (R15, R18 to R20, R28,
R32, R33, R40). -/
def Obligations.OperationsFrame : Prop :=
  ∀ (i : Instr) (s t : State), exec i s = .next t →
    ((∀ a : Addr, t.byteAt a = s.byteAt a) ∧ t.mem = s.mem ∧ t.others = s.others ∧ t.deny = s.deny ∧
      t.memResp = s.memResp ∧ t.inbox = s.inbox ∧ t.ctl.regBase = s.ctl.regBase ∧
      t.ctl.inBlk = s.ctl.inBlk ∧ t.ctl.outBlk = s.ctl.outBlk ∧ t.ctl.oracleOpen = s.ctl.oracleOpen ∧
      t.ctl.corePending = s.ctl.corePending ∧ t.ctl.draw = s.ctl.draw) ∧
    ((∀ d, i ≠ .wrCtrl d) →
      t.ctl.seq = s.ctl.seq ∧ t.ctl.ph = s.ctl.ph ∧ t.ctl.wx = s.ctl.wx ∧ t.ctl.wy = s.ctl.wy ∧
      t.ctl.err = s.ctl.err ∧ t.ctl.blkcnt = s.ctl.blkcnt ∧ t.ctl.dir = s.ctl.dir ∧ t.ctl.ie = s.ctl.ie)

/-- R25, R137, R158: no host operation's answer, and nothing else it changes, depends on the key registers: from two
states that differ only there, every operation but a key write leaves two states that differ only there. -/
def Obligations.KeyIsNotObservable : Prop :=
  ∀ (i : Instr) (s t : State) (key : Vector Word 8), (∀ n d, i ≠ .wrKey n d) → exec i s = .next t →
    exec i { s with ctl := { s.ctl with key := key } } = .next { t with ctl := { t.ctl with key := key } }

/-! ### The sequencer (spec/41_sequencer.md) -/

/-- R90: the validation step, with the length checked first (R150). -/
def Obligations.ValidationStep : Prop :=
  ∀ (s : State) (any : Block), s.ctl.seq = .validating → s.ctl.ph = .none → s.ctl.oracleOpen = false →
    (s.ctl.length.extractLsb' 0 4 ≠ 0#4 →
      s.controllerStep any = { s with ctl := { s.ctl with
        err := .invalidLength, seq := .failed, ph := .none, done := true, irq := s.ctl.ie } }) ∧
    (s.ctl.length.extractLsb' 0 4 = 0#4 → s.ctl.keyLen ≠ 16#32 → s.ctl.keyLen ≠ 24#32 → s.ctl.keyLen ≠ 32#32 →
      s.controllerStep any = { s with ctl := { s.ctl with
        err := .invalidKeyLength, seq := .failed, ph := .none, done := true, irq := s.ctl.ie } }) ∧
    (s.ctl.length.extractLsb' 0 4 = 0#4 → s.ctl.keyLen = 16#32 ∨ s.ctl.keyLen = 24#32 ∨ s.ctl.keyLen = 32#32 →
      s.controllerStep any = { s with ctl := { s.ctl with
        seq := .setup, ph := .openReq, irq := s.ctl.ie && s.ctl.done } })

/-- R91 to R94: OPEN is issued with variant 00, 01 or 10 for a `KEY_LEN` of 16, 24 or 32 (R67), and SET_KEY with that many
key bytes and 0 in every higher byte (R70); a failed OPEN ends in FAILED at once, a failed SET_KEY closes the core first,
and no block to process leads to CLOSING. -/
def Obligations.CoreSetupSteps : Prop :=
  ∀ (s : State) (any : Block) (n : Nat) (variant : BitVec 2) (r : CoreResp), s.ctl.seq = .setup →
    n = 16 ∧ variant = 0b00#2 ∨ n = 24 ∧ variant = 0b01#2 ∨ n = 32 ∧ variant = 0b10#2 →
    (s.ctl.ph = .openReq → s.ctl.keyLen.toNat = n →
      s.controllerStep any = { s with ctl := { s.ctl with
        coreReq := some ⟨0b000#3, variant, 0#6, Vector.replicate 32 0#8⟩, corePending := true, ph := .openWait
        irq := s.ctl.ie && s.ctl.done } }) ∧
    (s.ctl.ph = .openWait → s.ctl.coreResp = some r → r.ok = true →
      s.controllerStep any = { s with ctl := { s.ctl with
        corePending := false, coreResp := none, oracleOpen := true, ph := .key
        irq := s.ctl.ie && s.ctl.done } }) ∧
    (s.ctl.ph = .openWait → s.ctl.coreResp = some r → r.ok = false → s.ctl.oracleOpen = false →
      s.controllerStep any = { s with ctl := { s.ctl with
        corePending := false, coreResp := none, err := .oracleSetupFailure, seq := .failed, ph := .none
        done := true, irq := s.ctl.ie } }) ∧
    (s.ctl.ph = .key → s.ctl.keyLen.toNat = n →
      ∃ data : Vector Byte 32,
        s.controllerStep any = { s with ctl := { s.ctl with
          coreReq := some ⟨0b001#3, 0#2, BitVec.ofNat 6 n, data⟩, corePending := true, ph := .keyWait
          irq := s.ctl.ie && s.ctl.done } } ∧
        ∀ j : Fin 32, data.get j = if j.val < n then registerByte s.ctl.key j else 0#8) ∧
    (s.ctl.ph = .keyWait → s.ctl.coreResp = some r → r.ok = true → s.ctl.length >>> 4 ≠ 0#32 →
      s.controllerStep any = { s with ctl := { s.ctl with
        corePending := false, coreResp := none, seq := .processing, ph := .fetch
        irq := s.ctl.ie && s.ctl.done } }) ∧
    (s.ctl.ph = .keyWait → s.ctl.coreResp = some r → r.ok = true → s.ctl.length >>> 4 = 0#32 →
      s.controllerStep any = { s with ctl := { s.ctl with
        corePending := false, coreResp := none, seq := .closing, ph := .close
        irq := s.ctl.ie && s.ctl.done } }) ∧
    (s.ctl.ph = .keyWait → s.ctl.coreResp = some r → r.ok = false → s.ctl.oracleOpen = true →
      s.controllerStep any = { s with ctl := { s.ctl with
        corePending := false, coreResp := none, err := .oracleSetupFailure, seq := .closing, ph := .close
        irq := s.ctl.ie && s.ctl.done } })

/-- R95 and R55: block `j = BLKCNT + 1` is fetched from `SRC_ADDR + 16*(j-1)`, byte `k` into position `k`, a racing
byte being any value (R159; which bytes race is the model's note, notes/assumptions/7); a refused byte read is a
`MEMORY_ACCESS_FAILURE`.  Memory is unchanged either way. -/
def Obligations.BlockFetch : Prop :=
  ∀ (s : State) (any : Block), s.ctl.seq = .processing → s.ctl.ph = .fetch →
    ((∀ k, s.memOk (byteAddr (s.ctl.srcAddr + 16#32 * s.ctl.blkcnt) k) .read = true) →
      ∃ b : Block,
        s.controllerStep any = { s with ctl := { s.ctl with
          inBlk := b, ph := .cipher, irq := s.ctl.ie && s.ctl.done } } ∧
        ∀ k, b.get k =
          if s.contested (byteAddr (s.ctl.srcAddr + 16#32 * s.ctl.blkcnt) k) = true then any.get k
          else s.byteAt (byteAddr (s.ctl.srcAddr + 16#32 * s.ctl.blkcnt) k)) ∧
    ((∃ k, s.memOk (byteAddr (s.ctl.srcAddr + 16#32 * s.ctl.blkcnt) k) .read = false) →
      s.ctl.oracleOpen = true →
      s.controllerStep any = { s with ctl := { s.ctl with
        err := .memoryAccessFailure, seq := .closing, ph := .close, irq := s.ctl.ie && s.ctl.done } })

/-- R96, R97, R73: `P_i XOR Y` is sent with ENC (`op` 010) and the answer xor-ed with `X` to encrypt, `C_i XOR X` is sent
with DEC (`op` 011) and the answer xor-ed with `Y` to decrypt; an answer with `ok = 0` is a `BLOCK_OPERATION_FAILURE`.  The
request has `variant` 0 and `klen` 0, byte `k` of the block in byte `k` of `data`, and 0 in `data[255:128]` (R65, R72). -/
def Obligations.CipherSteps : Prop :=
  ∀ (s : State) (any : Block) (r : CoreResp), s.ctl.seq = .processing →
    (s.ctl.ph = .cipher →
      ∃ data : Vector Byte 32,
        s.controllerStep any = { s with ctl := { s.ctl with
          coreReq := some ⟨if s.ctl.dir = true then 0b010#3 else 0b011#3, 0#2, 0#6, data⟩
          corePending := true, ph := .cipherWait, irq := s.ctl.ie && s.ctl.done } } ∧
        ∀ j : Fin 32, data.get j =
          if h : j.val < 16 then
            (xor16 s.ctl.inBlk (if s.ctl.dir = true then s.ctl.wy else s.ctl.wx)).get ⟨j.val, h⟩
          else 0#8) ∧
    (s.ctl.ph = .cipherWait → s.ctl.coreResp = some r → r.ok = true →
      s.controllerStep any = { s with ctl := { s.ctl with
        corePending := false, coreResp := none, ph := .write
        outBlk := xor16 r.data (if s.ctl.dir = true then s.ctl.wx else s.ctl.wy)
        irq := s.ctl.ie && s.ctl.done } }) ∧
    (s.ctl.ph = .cipherWait → s.ctl.coreResp = some r → r.ok = false → s.ctl.oracleOpen = true →
      s.controllerStep any = { s with ctl := { s.ctl with
        corePending := false, coreResp := none, err := .blockOperationFailure, seq := .closing, ph := .close
        irq := s.ctl.ie && s.ctl.done } }) ∧
    (s.ctl.ph = .cipherWait → s.ctl.coreResp = none →
      s.controllerStep any = { s with ctl := { s.ctl with irq := s.ctl.ie && s.ctl.done } })

/-- R98: when every byte write is accepted, output block `j = BLKCNT + 1` holds `OUT`, a racing byte any value (R55), every
other byte of memory what it held, `WX` takes the plaintext, `WY` the ciphertext, `BLKCNT` counts the block, and the
last block leads to CLOSING.  The model's own note of races counts the sixteen bytes (notes/assumptions/7). -/
def Obligations.BlockWriteAccepted : Prop :=
  ∀ (s : State) (any : Block), s.ctl.seq = .processing → s.ctl.ph = .write → s.mem.wf = true →
    (∀ k, s.memOk (byteAddr (s.ctl.dstAddr + 16#32 * s.ctl.blkcnt) k) .write = true) →
    ∃ t, s.controllerStep any = t ∧
      t.ctl = { s.ctl with
        wx := if s.ctl.dir = true then s.ctl.inBlk else s.ctl.outBlk
        wy := if s.ctl.dir = true then s.ctl.outBlk else s.ctl.inBlk
        blkcnt := s.ctl.blkcnt + 1#32
        seq := if s.ctl.blkcnt + 1#32 = s.ctl.length >>> 4 then .closing else .processing
        ph := if s.ctl.blkcnt + 1#32 = s.ctl.length >>> 4 then .close else .fetch
        irq := s.ctl.ie && s.ctl.done
        race := { s.ctl.race with
          window := s.ctl.race.window.map fun w => { w with written := w.written + 16 } } } ∧
      (∀ k, t.byteAt (byteAddr (s.ctl.dstAddr + 16#32 * s.ctl.blkcnt) k) =
        if s.contested (byteAddr (s.ctl.dstAddr + 16#32 * s.ctl.blkcnt) k) = true then any.get k
        else s.ctl.outBlk.get k) ∧
      (∀ a, ¬ blockCovers (s.ctl.dstAddr + 16#32 * s.ctl.blkcnt) a → t.byteAt a = s.byteAt a) ∧
      t.deny = s.deny ∧ t.memResp = s.memResp ∧ t.inbox = s.inbox

/-- R46, R98, R149: when byte `k` is the first refused write, bytes below `k` of the block hold `OUT`, a racing byte any
value (R55), every other byte of memory what it held, and the transform goes to CLOSING with code 5; `BLKCNT`, the
working halves and the IV keep their values.  The model's own note of races counts the `k` bytes
(notes/assumptions/7). -/
def Obligations.BlockWriteRefused : Prop :=
  ∀ (s : State) (any : Block) (k : Fin 16), s.ctl.seq = .processing → s.ctl.ph = .write → s.mem.wf = true →
    s.ctl.oracleOpen = true →
    (∀ m, m < k → s.memOk (byteAddr (s.ctl.dstAddr + 16#32 * s.ctl.blkcnt) m) .write = true) →
    s.memOk (byteAddr (s.ctl.dstAddr + 16#32 * s.ctl.blkcnt) k) .write = false →
    ∃ t, s.controllerStep any = t ∧
      t.ctl = { s.ctl with
        err := .memoryAccessFailure, seq := .closing, ph := .close, irq := s.ctl.ie && s.ctl.done
        race := { s.ctl.race with
          window := s.ctl.race.window.map fun w => { w with written := w.written + k.val } } } ∧
      (∀ m, m < k → t.byteAt (byteAddr (s.ctl.dstAddr + 16#32 * s.ctl.blkcnt) m) =
        if s.contested (byteAddr (s.ctl.dstAddr + 16#32 * s.ctl.blkcnt) m) = true then any.get m
        else s.ctl.outBlk.get m) ∧
      (∀ a, (∀ m, m < k → a ≠ byteAddr (s.ctl.dstAddr + 16#32 * s.ctl.blkcnt) m) → t.byteAt a = s.byteAt a)

/-- R99 and R152: the failure path records the code, releases the core first when it is open, and otherwise ends in
FAILED with `DONE`; it changes nothing else. -/
def Obligations.FailurePath : Prop :=
  ∀ (c : Ctl) (code : ErrCode),
    (c.oracleOpen = true → c.fail code = { c with err := code, seq := .closing, ph := .close }) ∧
    (c.oracleOpen = false → c.fail code = { c with err := code, seq := .failed, ph := .none, done := true })

/-- R100, R101, R102: CLOSE is issued (`op` 100 and 0 in every other field, R65, R114); its answer is ignored; without a failure the transform completes, and an
encryption of at least one block writes `Y_n` into `IV0..IV3` and `X_n` into `IV4..IV7`. -/
def Obligations.ReleaseAndCommit : Prop :=
  ∀ (s : State) (any : Block) (r : CoreResp), s.ctl.seq = .closing →
    (s.ctl.ph = .close →
      s.controllerStep any = { s with ctl := { s.ctl with
        coreReq := some ⟨0b100#3, 0#2, 0#6, Vector.replicate 32 0#8⟩, corePending := true, ph := .closeWait
        irq := s.ctl.ie && s.ctl.done } }) ∧
    (s.ctl.ph = .closeWait → s.ctl.coreResp = some r → s.ctl.err ≠ .none →
      s.controllerStep any = { s with ctl := { s.ctl with
        corePending := false, coreResp := none, oracleOpen := false, seq := .failed, ph := .none
        done := true, irq := s.ctl.ie } }) ∧
    (s.ctl.ph = .closeWait → s.ctl.coreResp = some r → s.ctl.err = .none →
      ∃ iv : Vector Word 8,
        s.controllerStep any = { s with ctl := { s.ctl with
          corePending := false, coreResp := none, oracleOpen := false, seq := .completed, ph := .none
          done := true, irq := s.ctl.ie, iv := iv } } ∧
        (s.ctl.dir = true ∧ s.ctl.length >>> 4 ≠ 0#32 → lowHalf iv = s.ctl.wy ∧ highHalf iv = s.ctl.wx) ∧
        (s.ctl.dir = false ∨ s.ctl.length >>> 4 = 0#32 → iv = s.ctl.iv))

/-- R88, R103, R156: when no controller step is enabled (IDLE, COMPLETED and FAILED, and a wait phase before the core has
answered), a legal machine keeps its whole state. -/
def Obligations.NoStepWhenNoneIsEnabled : Prop :=
  ∀ (s : State) (any : Block), s.Legal → s.ctl.enabled = false →
    s.controllerStep any = s

/-- R26, R71, R102: the starting `Y` is bytes 0 to 15 of the IV registers and `X` bytes 16 to 31, and the registers and the
two halves hold the same bytes, in both directions. -/
def Obligations.IvRegistersHoldTheHalves : Prop :=
  (∀ low high : Block, lowHalf (halvesToRegs low high) = low ∧ highHalf (halvesToRegs low high) = high) ∧
  (∀ regs : Vector Word 8, halvesToRegs (lowHalf regs) (highHalf regs) = regs) ∧
  (∀ (regs : Vector Word 8) (k : Fin 16),
    (lowHalf regs).get k = registerByte regs ⟨k.val, by omega⟩ ∧
    (highHalf regs).get k = registerByte regs ⟨16 + k.val, by omega⟩) ∧
  (∀ (c : Ctl) (k : Fin 16),
    c.ivChain.y.get k = registerByte c.iv ⟨k.val, by omega⟩ ∧
    c.ivChain.x.get k = registerByte c.iv ⟨16 + k.val, by omega⟩)

/-- R25, R70: only key bytes `0 .. KEY_LEN-1` reach the core: two key register files that agree on them give the same
SET_KEY request. -/
def Obligations.OnlyKeyLenBytesReachTheCore : Prop :=
  ∀ (c : Ctl) (key : Vector Word 8),
    (∀ j : Fin 32, j.val < c.keyLen.toNat → registerByte key j = registerByte c.key j) →
    ({ c with key := key }.issueSetKey).coreReq = c.issueSetKey.coreReq

/-! ### The recurrence (spec/40_block_ops.md) -/

/-- R77, R83, R78, R79: lane `k` of `xor16(a, b)` is `a[k] XOR b[k]`; it is commutative and associative, `00*16` is its
identity, each block its own inverse; and the encryption step and the decryption step built from it. -/
def Obligations.DatapathFunctions : Prop :=
  ∀ (f : Block → Block) (a b c : Block),
    (∀ k, (xor16 a b).get k = a.get k ^^^ b.get k) ∧
    xor16 a a = Vector.replicate 16 0#8 ∧ xor16 a (Vector.replicate 16 0#8) = a ∧
    xor16 a b = xor16 b a ∧ xor16 (xor16 a b) c = xor16 a (xor16 b c) ∧ xor16 (xor16 a b) b = a ∧
    (encStep f ⟨a, b⟩ c).out = xor16 (f (xor16 c b)) a ∧
    (encStep f ⟨a, b⟩ c).next = ⟨c, xor16 (f (xor16 c b)) a⟩ ∧
    (decStep f ⟨a, b⟩ c).out = xor16 (f (xor16 c a)) b ∧
    (decStep f ⟨a, b⟩ c).next = ⟨xor16 (f (xor16 c a)) b, c⟩

/-- R84: decrypting the output of an encryption passes through the same chaining pairs, block by block, when `D` undoes
`E` (`InvLaw`). -/
def Obligations.DecryptionRetracesTheChain : Prop :=
  ∀ (E D : Variant → List Byte → Block → Block) (v : Variant) (key : List Byte) (iv : Chain) (ps : List Block),
    Config.InvLaw E D → key.length = v.keyBytes →
    ∀ i ≤ ps.length,
      (chainRun (decStep (D v key)) iv ((chainRun (encStep (E v key)) iv ps).outs.take i)).last =
        (chainRun (encStep (E v key)) iv (ps.take i)).last

/-- R85: the round trip, from the original IV. -/
def Obligations.DecryptionUndoesEncryption : Prop :=
  ∀ (E D : Variant → List Byte → Block → Block) (v : Variant) (key : List Byte) (iv : Chain) (ps : List Block),
    Config.InvLaw E D → key.length = v.keyBytes →
    igeDec (D v key) iv (igeEnc (E v key) iv ps).outs = ⟨ps, iv⟩

/-- R82 and R87: after an encryption of at least one block the IV is `C_n ++ P_n` (`Y` the last ciphertext block, `X`
the last plaintext block); after a decryption, and for `n = 0`, it is what it was. -/
def Obligations.CommittedIv : Prop :=
  ∀ (f : Block → Block) (iv : Chain) (bs : List Block) (b : Block),
    (igeEnc f iv (bs ++ [b])).iv.x = b ∧
    (igeEnc f iv (bs ++ [b])).outs.getLast? = some (igeEnc f iv (bs ++ [b])).iv.y ∧
    (igeEnc f iv []).iv = iv ∧ (igeEnc f iv []).outs = [] ∧
    (igeDec f iv bs).iv = iv

/-- R167: a message encrypted in two transforms, the second from the IV the first committed, gives the same output and
the same IV; a decryption continued from the last ciphertext and plaintext block gives the same output. -/
def Obligations.MessageMaySplit : Prop :=
  ∀ (f : Block → Block) (iv : Chain) (ps qs : List Block),
    (igeEnc f iv (ps ++ qs)).outs =
      (igeEnc f iv ps).outs ++ (igeEnc f (igeEnc f iv ps).iv qs).outs ∧
    (igeEnc f iv (ps ++ qs)).iv = (igeEnc f (igeEnc f iv ps).iv qs).iv ∧
    (∀ p c, (igeDec f iv ps).outs.getLast? = some p → ps.getLast? = some c →
      (igeDec f iv (ps ++ qs)).outs = (igeDec f iv ps).outs ++ (igeDec f ⟨p, c⟩ qs).outs)

/-- R86: if two plaintexts agree before position `i` and differ at it, and `E` is injective, the ciphertexts agree
before `i` and differ at it; the same holds of the plaintexts of two ciphertexts, with `D` for `E`.  Under `InvLaw` both
block functions are injective, for every key of the variant's length. -/
def Obligations.FirstDifferenceShows : Prop :=
  (∀ (f : Block → Block) (iv : Chain) (pre ps qs : List Block) (p q : Block),
    (∀ a b, f a = f b → a = b) → p ≠ q →
    (igeEnc f iv (pre ++ p :: ps)).outs.take pre.length = (igeEnc f iv (pre ++ q :: qs)).outs.take pre.length ∧
    (igeEnc f iv (pre ++ p :: ps)).outs[pre.length]? ≠ (igeEnc f iv (pre ++ q :: qs)).outs[pre.length]? ∧
    (igeDec f iv (pre ++ p :: ps)).outs.take pre.length = (igeDec f iv (pre ++ q :: qs)).outs.take pre.length ∧
    (igeDec f iv (pre ++ p :: ps)).outs[pre.length]? ≠ (igeDec f iv (pre ++ q :: qs)).outs[pre.length]?) ∧
  (∀ (E D : Variant → List Byte → Block → Block) (v : Variant) (key : List Byte) (a b : Block),
    Config.InvLaw E D → key.length = v.keyBytes →
    (E v key a = E v key b → a = b) ∧ (D v key a = D v key b → a = b))

/-! ### Reset (spec/70_reset_and_hazards.md) -/

/-- R160 and R161: the reset value of every register, flag and latch of the controller, after reset and after the `rst`
event in any state.  The event abandons a transform; memory keeps what was written, and a reset that falls into a block
write leaves a part of that block, its first accepted bytes, a racing one any value.  How many is the event's own number
(notes/assumptions/17), and `REG_BASE` is a parameter (notes/assumptions/5). -/
def Obligations.ResetValues : Prop :=
  (∀ c : Ctl, c = State.reset.ctl ∨ (∃ u : Ctl, c = u.rst) →
    c.dir = false ∧ c.ie = false ∧ c.done = false ∧ c.wbusy = false ∧ c.busy = false ∧
    c.seq = .idle ∧ c.err = .none ∧ c.blkcnt = 0#32 ∧ c.length = 0#32 ∧
    c.srcAddr = 0#32 ∧ c.dstAddr = 0#32 ∧ c.keyLen = 0#32 ∧
    (∀ n, c.key.get n = 0#32) ∧ (∀ n, c.iv.get n = 0#32) ∧ c.ph = .none ∧
    (∀ k, c.wx.get k = 0#8) ∧ (∀ k, c.wy.get k = 0#8) ∧ (∀ k, c.inBlk.get k = 0#8) ∧
    (∀ k, c.outBlk.get k = 0#8) ∧
    c.oracleOpen = false ∧ c.corePending = false ∧ c.coreResp = none ∧ c.irq = false) ∧
  (∀ (s : State) (part : Nat) (any : Block) (rest : List Event),
    s.inbox = .reset part any :: rest → s.mem.wf = true →
    ∃ t, step s = .next t ∧ t.ctl = s.ctl.rst ∧ t.ctl.regBase = s.ctl.regBase ∧
      t.inbox = rest ∧ t.deny = s.deny ∧ t.memResp = s.memResp ∧
      (¬(s.ctl.seq = .processing ∧ s.ctl.ph = .write) → t.mem = s.mem ∧ t.others = s.others) ∧
      (∀ a, ¬ blockCovers (s.ctl.dstAddr + 16#32 * s.ctl.blkcnt) a → t.byteAt a = s.byteAt a) ∧
      (s.ctl.seq = .processing → s.ctl.ph = .write → ∀ k : Fin 16,
        (k.val < part ∧ (∀ m, m ≤ k → s.memOk (byteAddr (s.ctl.dstAddr + 16#32 * s.ctl.blkcnt) m) .write = true) →
          t.byteAt (byteAddr (s.ctl.dstAddr + 16#32 * s.ctl.blkcnt) k) =
            if s.contested (byteAddr (s.ctl.dstAddr + 16#32 * s.ctl.blkcnt) k) = true then any.get k
            else s.ctl.outBlk.get k) ∧
        (part ≤ k.val ∨ (∃ m, m ≤ k ∧ s.memOk (byteAddr (s.ctl.dstAddr + 16#32 * s.ctl.blkcnt) m) .write = false) →
          t.byteAt (byteAddr (s.ctl.dstAddr + 16#32 * s.ctl.blkcnt) k) =
            s.byteAt (byteAddr (s.ctl.dstAddr + 16#32 * s.ctl.blkcnt) k))))

/-! ### Invariants and whole-machine rules -/

/-- The state after reset is legal and the core tracks it (R160).  That its memory lists nothing, and the canonical form of
that list, are the MODEL's (DESIGN CHOICE, notes/assumptions/1). -/
def Obligations.ResetIsLegal : Prop :=
  State.reset.Legal ∧ State.reset.Tracks ∧ State.reset.mem.wf = true

/-- Every step of every agent keeps every controller legal (R20, R31, R34 to R36, R88, R99, R101, R108). -/
def Obligations.StepKeepsLegal : Prop :=
  ∀ s t : State, s.Legal → step s = .next t → t.Legal

/-- A legal machine never stops: every step answers a next state, since the controller never sends a request that the
core's decoder rejects (R74). -/
def Obligations.LegalMachineNeverStops : Prop :=
  ∀ s : State, s.Legal → ∃ t, step s = .next t

/-- Every step keeps the core in step with its transform: it is opened and keyed for the configuration in use, its
successful answers are the block function's, and the block about to be written is the recurrence's (R78, R79, R109,
R116). -/
def Obligations.StepKeepsTracks : Prop :=
  ∀ s t : State, s.Legal → s.Tracks → step s = .next t → t.Tracks

/-- Every step keeps memory in its canonical form, which is the MODEL's own way to hold the 2^32 bytes of R40 (DESIGN
CHOICE, notes/assumptions/1). -/
def Obligations.StepKeepsMemoryCanonical : Prop :=
  ∀ s t : State, s.mem.wf = true → step s = .next t → t.mem.wf = true

/-- R106: a controller step that is enabled brings the end of the transform nearer; a transform has at most `7 + 4n`
of them, and none is left exactly when it is not BUSY. -/
def Obligations.EnabledStepsRunOut : Prop :=
  ∀ (s : State) (any : Block), s.Legal →
    (s.ctl.enabled = true → (s.controllerStep any).ctl.stepsLeft < s.ctl.stepsLeft) ∧
    s.ctl.stepsLeft ≤ 7 + 4 * s.ctl.nBlocks.toNat ∧
    (s.ctl.stepsLeft = 0 ↔ s.ctl.busy = false)

/-- R28: while BUSY the configuration registers keep their values through every step, a host write or any other, but
reset and a change of the selected instance.  The one exception is the IV at the controller step that commits (R102): it
then holds the working halves, and that same step makes BUSY 0. -/
def Obligations.ConfigurationConstantWhileBusy : Prop :=
  ∀ (s t : State) (e : Event) (rest : List Event), s.inbox = e :: rest → e.isReset = false → e.isSelect = false →
    s.ctl.busy = true → step s = .next t →
    t.ctl.dir = s.ctl.dir ∧ t.ctl.ie = s.ctl.ie ∧ t.ctl.length = s.ctl.length ∧
    t.ctl.srcAddr = s.ctl.srcAddr ∧ t.ctl.dstAddr = s.ctl.dstAddr ∧ t.ctl.keyLen = s.ctl.keyLen ∧
    t.ctl.key = s.ctl.key ∧
    ((∀ any, e = .controller any → s.ctl.commits = false) → t.ctl.iv = s.ctl.iv) ∧
    (∀ any, e = .controller any → s.ctl.commits = true →
      t.ctl.iv = halvesToRegs s.ctl.wy s.ctl.wx ∧ t.ctl.busy = false)

/-- R102, R153: a controller step writes the IV exactly when it consumes the CLOSE answer of a successful encryption of
at least one block, and then with `Y_n` and `X_n`; no failure changes it. -/
def Obligations.IvWrittenOnlyByCommit : Prop :=
  ∀ (s : State) (any : Block),
    (s.controllerStep any).ctl.iv = if s.ctl.commits = true then halvesToRegs s.ctl.wy s.ctl.wx else s.ctl.iv

/-- R18, R99, R101, R121, R123, R125: `DONE` rises only when a transform ends in COMPLETED or FAILED, and `WBUSY` only at a
host write to a configuration register that is ignored because BUSY, changing nothing else. -/
def Obligations.FlagsRiseOnlyAsListed : Prop :=
  ∀ (s t : State) (e : Event) (rest : List Event), s.inbox = e :: rest → e.isSelect = false → step s = .next t →
    (s.ctl.done = false → t.ctl.done = true →
      (∃ any, e = .controller any) ∧ s.ctl.busy = true ∧ (t.ctl.seq = .completed ∨ t.ctl.seq = .failed)) ∧
    (s.ctl.wbusy = false → t.ctl.wbusy = true →
      s.ctl.busy = true ∧
      t = { s with inbox := rest, ctl := { s.ctl with
        wbusy := true, hostResp := .ack, irq := s.ctl.ie && s.ctl.done } } ∧
      ∃ acc i, e = .host acc ∧ acc.write = true ∧
        decodeHost ⟨0b1#1 ++ (acc.addr - s.ctl.regBase).extractLsb' 0 7, acc.data⟩ = .ok i ∧
        ∃ n, i ∈ [Instr.wrCtrl acc.data, .wrLength acc.data, .wrSrc acc.data, .wrDst acc.data, .wrKeylen acc.data,
          .wrKey n acc.data, .wrIv n acc.data])

/-- R155: between two STARTs `ERRCODE` is written at most once: a controller step of a legal machine keeps a nonzero
code. -/
def Obligations.FirstFailureIsReported : Prop :=
  ∀ (s : State) (any : Block), s.Legal → s.ctl.err ≠ .none → (s.controllerStep any).ctl.err = s.ctl.err

/-- R40, R47, R52, R53: a controller step changes a byte of memory only while PROCESSING in the write phase, and then
only a byte of the output block in progress. -/
def Obligations.ControllerWritesOnlyItsOutputBlock : Prop :=
  ∀ (s : State) (any : Block) (a : Addr), s.mem.wf = true →
    (s.controllerStep any).byteAt a ≠ s.byteAt a →
    s.ctl.seq = .processing ∧ s.ctl.ph = .write ∧ blockCovers (s.ctl.dstAddr + 16#32 * s.ctl.blkcnt) a

/-- R40, R47, R52: what a controller step does to its own registers depends on memory only through the sixteen bytes of
the input block in progress, and only while PROCESSING in the fetch phase. -/
def Obligations.ControllerReadsOnlyItsInputBlock : Prop :=
  ∀ (s : State) (m : Memory) (any : Block),
    (s.ctl.seq = .processing → s.ctl.ph = .fetch → ∀ k,
      memGet m (byteAddr (s.ctl.srcAddr + 16#32 * s.ctl.blkcnt) k).toNat =
        s.byteAt (byteAddr (s.ctl.srcAddr + 16#32 * s.ctl.blkcnt) k)) →
    (State.controllerStep any { s with mem := m }).ctl = (s.controllerStep any).ctl

/-- R159: a step of the selected instance, and a host access outside an instance's window, leave every register, latch and
core of that other instance as it was: only the model's own note of a racing write (`foreign`, notes/assumptions/7) can
change there.  The width of host addresses is the model's too (notes/assumptions/24). -/
def Obligations.InstancesAreIndependent : Prop :=
  ∀ (s t : State) (e : Event) (rest : List Event), s.inbox = e :: rest → e.isSelect = false → step s = .next t →
    t.others.length = s.others.length ∧
    ∀ (k : Nat) (c d : Ctl), s.others[k]? = some c → t.others[k]? = some d →
      (∀ acc, e = .host acc → 128 ≤ (acc.addr - c.regBase).toNat) →
      { d with race := { d.race with foreign := c.race.foreign } } = c

/-- R35, R104, R108: a legal controller sends a request only when none is pending, OPEN only when the oracle is not
open, and every other request only when it is. -/
def Obligations.RequestsAreSentInOrder : Prop :=
  ∀ (s : State) (any : Block) (q : CoreWord), s.Legal →
    s.ctl.coreReq = none → (s.controllerStep any).ctl.coreReq = some q →
    s.ctl.corePending = false ∧ s.ctl.coreResp = none ∧ (s.controllerStep any).ctl.corePending = true ∧
    (decodeCore q = .ok .coreClose ↔ s.ctl.seq = .closing) ∧
    (s.ctl.oracleOpen = false ↔ ∃ v, decodeCore q = .ok (.coreOpen v)) ∧
    (s.ctl.seq = .processing ↔ ∃ b, decodeCore q = .ok (if s.ctl.dir = true then .coreEnc b else .coreDec b))

/-- R54, R55, R164: a host read of a byte in the ranges of a transform whose end the host has not acquired may return any
value, and any other read returns the byte, so a host that has acquired every transform reads memory.  The unacquired
transforms, and how far each has written, are the model's own note (notes/assumptions/7). -/
def Obligations.RacingHostRead : Prop :=
  ∀ (s : State) (a : Addr) (v : Byte),
    ((∃ c ∈ s.ctl :: s.others, c.covers a = true) → (s.hostLoad a v).memResp = some v) ∧
    ((∀ c ∈ s.ctl :: s.others, c.covers a = false) → (s.hostLoad a v).memResp = some (s.byteAt a)) ∧
    ((∀ c ∈ s.ctl :: s.others, c.race.window = none ∧ c.race.earlier = []) →
      (s.hostLoad a v).memResp = some (s.byteAt a)) ∧
    ∀ c : Ctl,
      (c.covers a = true ↔ ∃ w, (c.race.window = some w ∨ w ∈ c.race.earlier) ∧
        ((a - w.src).toNat < w.bytes ∨ (a - w.dst).toNat < w.bytes)) ∧
      (c.hasWritten a = true ↔ ∃ w, (c.race.window = some w ∨ w ∈ c.race.earlier) ∧
        (a - w.dst).toNat < w.written)

/-! ### The machine computes IGE -/

/-- The schedule of one block: fetch, cipher request, answer, second XOR, write. -/
def blockSchedule (any : Block) (draw : CoreDraw) : List Event :=
  [.controller any, .controller any, .core draw, .controller any, .controller any]

/-- The schedule of a message: each block with its own free values. -/
def messageSchedule (blocks : List (Block × CoreDraw)) : List Event :=
  (blocks.map fun p => blockSchedule p.1 p.2).flatten

/-- The block of system memory at an address. -/
def memoryBlock (s : State) (base : Addr) : Block :=
  Vector.ofFn fun k => s.byteAt (byteAddr base k)

/-- The input blocks of a transform, as memory holds them. -/
def inputBlocks (s : State) (n : Nat) : List Block :=
  (List.range n).map fun j => memoryBlock s (s.ctl.srcAddr + 16#32 * BitVec.ofNat 32 j)

/-- The output block of a transform at position `j`, as memory holds it. -/
def outputBlock (s : State) (j : Nat) : Block :=
  memoryBlock s (s.ctl.dstAddr + 16#32 * BitVec.ofNat 32 j)

/-- The accesses of a transform of `n` blocks go through: the platform accepts every byte read of the input range and
every byte write of the output range (R46), and no byte of either range races (R55, R159).  The platform may refuse
other accesses, and other instances may exist and run. -/
def rangesUsable (s : State) (n : Nat) : Prop :=
  ∀ a : Addr,
    ((a - s.ctl.srcAddr).toNat < 16 * n → s.memOk a .read = true ∧ s.contested a = false) ∧
    ((a - s.ctl.dstAddr).toNat < 16 * n → s.memOk a .write = true ∧ s.contested a = false)

/-- One block, R95 to R98 together: with every byte of the two blocks accepted and none racing, and an answer with
`ok = 1`, the five steps of a block write the chaining step's output block, leave the step's chaining pair in `WX` and
`WY`, count the block, and change no other byte of memory. -/
def Obligations.OneBlockIsOneChainingStep : Prop :=
  ∀ (s : State) (any : Block) (draw : CoreDraw) (rest : List Event),
    s.Legal → s.Tracks → s.mem.wf = true → s.ctl.seq = .processing → s.ctl.ph = .fetch → draw.ok = true →
    (∀ k, s.memOk (byteAddr (s.ctl.srcAddr + 16#32 * s.ctl.blkcnt) k) .read = true ∧
      s.contested (byteAddr (s.ctl.srcAddr + 16#32 * s.ctl.blkcnt) k) = false) →
    (∀ k, s.memOk (byteAddr (s.ctl.dstAddr + 16#32 * s.ctl.blkcnt) k) .write = true ∧
      s.contested (byteAddr (s.ctl.dstAddr + 16#32 * s.ctl.blkcnt) k) = false) →
    s.inbox = blockSchedule any draw ++ rest →
    ∃ t : State, core.run 5 s = .next t ∧ t.inbox = rest ∧
      outputBlock t s.ctl.blkcnt.toNat =
        (s.ctl.chainStep (memoryBlock s (s.ctl.srcAddr + 16#32 * s.ctl.blkcnt))).out ∧
      t.ctl.chain = (s.ctl.chainStep (memoryBlock s (s.ctl.srcAddr + 16#32 * s.ctl.blkcnt))).next ∧
      t.ctl.blkcnt = s.ctl.blkcnt + 1#32 ∧
      (∀ a, ¬ blockCovers (s.ctl.dstAddr + 16#32 * s.ctl.blkcnt) a → t.byteAt a = s.byteAt a)

/-- A whole message, R80, R81, R60: from the first block, with both ranges usable, every core answer `ok` and an output
range that is the input range or does not start inside it, the controller leaves the recurrence's output blocks in the
output range, its last chaining pair in `WX` and `WY`, `BLKCNT = n`, and no other byte of memory changed.  For `16n` up to
2^31 the condition on the output range takes in every case that R60 promises; above that R60's third case is wider
(notes/assumptions/23). -/
def Obligations.ControllerComputesIge : Prop :=
  ∀ (s : State) (blocks : List (Block × CoreDraw)) (rest : List Event) (n : Nat),
    s.Legal → s.Tracks → s.mem.wf = true → s.ctl.seq = .processing → s.ctl.ph = .fetch →
    s.ctl.blkcnt = 0#32 → n = (s.ctl.length >>> 4).toNat →
    rangesUsable s n → blocks.length = n → (∀ p ∈ blocks, p.2.ok = true) →
    s.ctl.dstAddr = s.ctl.srcAddr ∨ 16 * n ≤ (s.ctl.dstAddr - s.ctl.srcAddr).toNat →
    s.inbox = messageSchedule blocks ++ rest →
    ∃ t : State, core.run (5 * n) s = .next t ∧ t.inbox = rest ∧
      t.ctl.seq = .closing ∧ t.ctl.ph = .close ∧ t.ctl.err = .none ∧ t.ctl.blkcnt = s.ctl.length >>> 4 ∧
      t.ctl.iv = s.ctl.iv ∧
      (∀ j, j < n →
        (chainRun s.ctl.chainStepFrom s.ctl.chain (inputBlocks s n)).outs[j]? =
          some (outputBlock t j)) ∧
      t.ctl.chain =
        (chainRun s.ctl.chainStepFrom s.ctl.chain (inputBlocks s n)).last ∧
      (∀ a : Addr, 16 * n ≤ (a - s.ctl.dstAddr).toNat → t.byteAt a = s.byteAt a)

/-- The steps before the first block: validation, OPEN and SET_KEY, each answer with its own draw. -/
def setupSchedule (any : Block) (opening keying : CoreDraw) : List Event :=
  [.controller any, .controller any, .core opening, .controller any, .controller any, .core keying, .controller any]

/-- The steps after the last block: CLOSE, its answer, and the commit. -/
def releaseSchedule (any : Block) (draw : CoreDraw) : List Event :=
  [.controller any, .core draw, .controller any]

/-- A whole transform from an accepted START to `DONE`, R89 to R102 and R107: with a valid configuration, both ranges
usable, every core answer but that of CLOSE `ok`, and an output range that is the input range or does not start inside it
(which takes in the cases R60 promises for `16n` up to 2^31, notes/assumptions/23), its `7 + 4n` controller steps and
`n + 3` core answers leave `IgeEnc` or `IgeDec` of the input in the output range and its IV in the IV registers. -/
def Obligations.TransformIsIge : Prop :=
  ∀ (s : State) (any : Block) (opening keying closing : CoreDraw) (blocks : List (Block × CoreDraw)) (rest : List Event)
    (n : Nat),
    s.Legal → s.mem.wf = true → s.ctl.seq = .validating →
    s.ctl.wx = highHalf s.ctl.iv → s.ctl.wy = lowHalf s.ctl.iv →
    n = (s.ctl.length >>> 4).toNat → s.ctl.length.extractLsb' 0 4 = 0#4 → keyLengthOk s.ctl.keyLen.toNat = true →
    rangesUsable s n → opening.ok = true → keying.ok = true → blocks.length = n → (∀ p ∈ blocks, p.2.ok = true) →
    s.ctl.dstAddr = s.ctl.srcAddr ∨ 16 * n ≤ (s.ctl.dstAddr - s.ctl.srcAddr).toNat →
    s.inbox = setupSchedule any opening keying ++ messageSchedule blocks ++ releaseSchedule any closing ++ rest →
    ∃ t : State, core.run (5 * n + 10) s = .next t ∧ t.inbox = rest ∧
      t.ctl.seq = .completed ∧ t.ctl.done = true ∧ t.ctl.err = .none ∧ t.ctl.blkcnt.toNat = n ∧
      t.ctl.oracleOpen = false ∧
      (∀ j, j < n →
        (if s.ctl.dir = true then igeEnc s.ctl.blockFn s.ctl.ivChain (inputBlocks s n)
          else igeDec s.ctl.blockFn s.ctl.ivChain (inputBlocks s n)).outs[j]? = some (outputBlock t j)) ∧
      t.ctl.ivChain =
        (if s.ctl.dir = true then igeEnc s.ctl.blockFn s.ctl.ivChain (inputBlocks s n)
          else igeDec s.ctl.blockFn s.ctl.ivChain (inputBlocks s n)).iv ∧
      (∀ a : Addr, 16 * n ≤ (a - s.ctl.dstAddr).toNat → t.byteAt a = s.byteAt a)

/-! ### Which bytes race -/

/-- R55, R159: which bytes race for the selected controller: those another agent has written since its START, and those in
the ranges of a transform that another instance is running, or was running at that START.  A host store into the ranges
of a running transform makes its byte one of the first, and so does each byte of another instance's block write.  How
the model notes it is notes/assumptions/7. -/
def Obligations.ContestedBytes : Prop :=
  ∀ s : State,
    (∀ a, s.contested a = true ↔
      a.toNat ∈ s.ctl.race.foreign ∨
      ∃ w, (w ∈ s.ctl.race.rivals ∨ ∃ c ∈ s.others, c.busy = true ∧ c.race.window = some w) ∧
        ((a - w.src).toNat < w.bytes ∨ (a - w.dst).toNat < w.bytes)) ∧
    (∀ a v any rest w, s.inbox = .hostStore a v any :: rest → s.ctl.busy = true → s.ctl.race.window = some w →
      (a - w.src).toNat < w.bytes ∨ (a - w.dst).toNat < w.bytes →
      ∃ t, step s = .next t ∧ t.contested a = true) ∧
    (∀ (any : Block) (rest : List Event) (k : Nat) (c : Ctl) (w : BufferWindow) (m : Fin 16) (a : Addr),
      s.inbox = .controller any :: rest → s.ctl.seq = .processing → s.ctl.ph = .write →
      (∀ j, j ≤ m → s.memOk (byteAddr (s.ctl.dstAddr + 16#32 * s.ctl.blkcnt) j) .write = true) →
      a = byteAddr (s.ctl.dstAddr + 16#32 * s.ctl.blkcnt) m →
      s.others[k]? = some c → c.busy = true → c.race.window = some w →
      (a - w.src).toNat < w.bytes ∨ (a - w.dst).toNat < w.bytes →
      ∃ t, step s = .next t ∧ (t.select k).contested a = true)
end

