-- ==== Sys2Proof/Laws/Memory.lean ====
section
/-! SUPPORT. The laws of system memory as a list of cells: reading after writing, and the canonical form. -/

namespace Sys2Proof.Machine

/-- In a memory whose first address lies above `a`, nothing is listed at `a`. -/
theorem memGet_eq_unlisted_of_lt {m : Memory} {a : Nat} (h : ∀ e ∈ m, a < e.1) :
    memGet m a = Config.unlistedByte := by
  induction m with
  | nil => rfl
  | cons e rest ih =>
    obtain ⟨b, v⟩ := e
    have hb : a < b := h (b, v) (by simp)
    have hne : b ≠ a := by omega
    simp only [memGet, hne, if_false]
    exact ih fun e he => h e (by simp [he])

theorem Memory.wf_cons {a : Nat} {v : Byte} {rest : Memory} :
    Memory.wf ((a, v) :: rest) = true ↔
      a < 2 ^ 32 ∧ v ≠ Config.unlistedByte ∧ (∀ e ∈ rest, a < e.1) ∧ Memory.wf rest = true := by
  simp only [Memory.wf, Bool.and_eq_true, decide_eq_true_eq, bne_iff_ne, List.all_eq_true]
  tauto

/-- Every listed address after a write is the written one or was listed before. -/
theorem memPut_addresses {m : Memory} {a : Nat} {v : Byte} {e : Host.Cell} (h : e ∈ memPut m a v) :
    e.1 = a ∨ e ∈ m := by
  induction m with
  | nil =>
    unfold memPut at h
    split at h
    · simp at h
    · simp at h; simp [h]
  | cons c rest ih =>
    obtain ⟨b, w⟩ := c
    unfold memPut at h
    split at h
    · split at h
      · exact .inr h
      · rcases List.mem_cons.mp h with rfl | h'
        · exact .inl rfl
        · exact .inr h'
    · split at h
      · split at h
        · exact .inr (List.mem_cons_of_mem _ h)
        · rcases List.mem_cons.mp h with rfl | h'
          · exact .inl rfl
          · exact .inr (List.mem_cons_of_mem _ h')
      · rcases List.mem_cons.mp h with rfl | h'
        · exact .inr (by simp)
        · rcases ih h' with h1 | h1
          · exact .inl h1
          · exact .inr (List.mem_cons_of_mem _ h1)

/-- A write keeps the canonical form. -/
theorem memPut_wf {m : Memory} {a : Nat} {v : Byte} (hm : Memory.wf m = true) (ha : a < 2 ^ 32) :
    Memory.wf (memPut m a v) = true := by
  induction m with
  | nil =>
    unfold memPut
    split
    · rfl
    · next hv => exact Memory.wf_cons.mpr ⟨ha, hv, by simp, rfl⟩
  | cons c rest ih =>
    obtain ⟨b, w⟩ := c
    obtain ⟨hb, hw, hlt, hrest⟩ := Memory.wf_cons.mp hm
    unfold memPut
    split
    · next hab =>
      split
      · exact hm
      · next hv =>
        refine Memory.wf_cons.mpr ⟨ha, hv, ?_, hm⟩
        intro e he
        rcases List.mem_cons.mp he with rfl | he
        · exact hab
        · exact Nat.lt_trans hab (hlt e he)
    · next hab =>
      split
      · next heq =>
        subst heq
        split
        · exact hrest
        · next hv => exact Memory.wf_cons.mpr ⟨ha, hv, hlt, hrest⟩
      · next hne =>
        refine Memory.wf_cons.mpr ⟨hb, hw, ?_, ih hrest⟩
        intro e he
        rcases memPut_addresses he with h | h
        · omega
        · exact hlt e h

/-- Reading after writing: the written address reads as the value, every other address as before. -/
theorem memGet_memPut {m : Memory} {a b : Nat} {v : Byte} (hm : Memory.wf m = true) :
    memGet (memPut m a v) b = if a = b then v else memGet m b := by
  induction m with
  | nil =>
    unfold memPut
    split
    · next hv => subst hv; simp [memGet]
    · simp [memGet]
  | cons c rest ih =>
    obtain ⟨x, w⟩ := c
    obtain ⟨-, -, hlt, hrest⟩ := Memory.wf_cons.mp hm
    unfold memPut
    split
    · next hax =>
      split
      · next hv =>
        subst hv
        split
        · next hab =>
          subst hab
          apply memGet_eq_unlisted_of_lt
          intro e he
          rcases List.mem_cons.mp he with rfl | he
          · exact hax
          · exact Nat.lt_trans hax (hlt e he)
        · rfl
      · rfl
    · split
      · next hax =>
        subst hax
        split
        · next hv =>
          subst hv
          split
          · next hab => subst hab; exact memGet_eq_unlisted_of_lt hlt
          · next hab => simp [memGet, hab]
        · by_cases hab : a = b <;> simp [memGet, hab]
      · next hax =>
        rw [memGet, ih hrest]
        by_cases hxb : x = b
        · subst hxb; simp [memGet, hax]
        · simp [memGet, hxb]

/-- Two canonical memories that read the same everywhere are the same list. -/
theorem Memory.ext_of_wf {m n : Memory} (hm : Memory.wf m = true) (hn : Memory.wf n = true)
    (h : ∀ a, memGet m a = memGet n a) : m = n := by
  induction m generalizing n with
  | nil =>
    cases n with
    | nil => rfl
    | cons c rest =>
      obtain ⟨x, w⟩ := c
      obtain ⟨-, hw, -, -⟩ := Memory.wf_cons.mp hn
      exact absurd (by simpa [memGet] using (h x).symm) hw
  | cons c rest ih =>
    obtain ⟨x, w⟩ := c
    obtain ⟨hx, hw, hlt, hrest⟩ := Memory.wf_cons.mp hm
    cases n with
    | nil => exact absurd (by simpa [memGet] using h x) hw
    | cons d rest' =>
      obtain ⟨y, u⟩ := d
      obtain ⟨-, hu, hlt', hrest'⟩ := Memory.wf_cons.mp hn
      have hxy : x = y := by
        rcases Nat.lt_trichotomy x y with hl | he | hl
        · have : memGet ((y, u) :: rest') x = Config.unlistedByte :=
            memGet_eq_unlisted_of_lt fun e he => by
              rcases List.mem_cons.mp he with rfl | he
              · exact hl
              · exact Nat.lt_trans hl (hlt' e he)
          exact absurd ((by simpa [memGet] using h x : w = _).trans this) hw
        · exact he
        · have : memGet ((x, w) :: rest) y = Config.unlistedByte :=
            memGet_eq_unlisted_of_lt fun e he => by
              rcases List.mem_cons.mp he with rfl | he
              · exact hl
              · exact Nat.lt_trans hl (hlt e he)
          exact absurd ((by simpa [memGet] using (h y).symm : u = _).trans this) hu
      subst hxy
      have hwu : w = u := by simpa [memGet] using h x
      subst hwu
      congr 1
      apply ih hrest hrest'
      intro a
      by_cases ha : x = a
      · subst ha
        rw [memGet_eq_unlisted_of_lt hlt, memGet_eq_unlisted_of_lt hlt']
      · simpa [memGet, ha] using h a

end Sys2Proof.Machine
end

