-- ==== Sys2Proof/Laws/State.lean ====
section
/-! SUPPORT. What each update of the state does to each field: one lemma per field per update. -/

namespace Sys2Proof.Machine

/-! ### The selected instance inside the machine -/

section MapCtl
variable (f g : Ctl → Ctl) (s : State)

@[simp] theorem State.mapCtl_ctl : (s.mapCtl f).ctl = f s.ctl := rfl
@[simp] theorem State.mapCtl_others : (s.mapCtl f).others = s.others := rfl
@[simp] theorem State.mapCtl_mem : (s.mapCtl f).mem = s.mem := rfl
@[simp] theorem State.mapCtl_deny : (s.mapCtl f).deny = s.deny := rfl
@[simp] theorem State.mapCtl_memResp : (s.mapCtl f).memResp = s.memResp := rfl
@[simp] theorem State.mapCtl_inbox : (s.mapCtl f).inbox = s.inbox := rfl
@[simp] theorem State.mapCtl_mapCtl : (s.mapCtl f).mapCtl g = s.mapCtl (fun c => g (f c)) := rfl
@[simp] theorem State.mapCtl_byteAt (a : Addr) : (s.mapCtl f).byteAt a = s.byteAt a := rfl
@[simp] theorem State.mapCtl_memOk (a : Addr) (k : AccessKind) : (s.mapCtl f).memOk a k = s.memOk a k := rfl

end MapCtl

section PutByte
variable (s : State) (a : Addr) (v any : Byte)

@[simp] theorem State.putByte_ctl : (s.putByte a v any).ctl = s.ctl := rfl
@[simp] theorem State.putByte_others :
    (s.putByte a v any).others = s.others.map (Ctl.markForeign a) := rfl
@[simp] theorem State.putByte_mem :
    (s.putByte a v any).mem = memPut s.mem a.toNat (if s.contested a then any else v) := rfl
@[simp] theorem State.putByte_deny : (s.putByte a v any).deny = s.deny := rfl
@[simp] theorem State.putByte_memResp : (s.putByte a v any).memResp = s.memResp := rfl
@[simp] theorem State.putByte_inbox : (s.putByte a v any).inbox = s.inbox := rfl
@[simp] theorem State.putByte_memOk (b : Addr) (k : AccessKind) :
    (s.putByte a v any).memOk b k = s.memOk b k := rfl

end PutByte

/-! ### Updates of one instance that hold whatever its state -/

section Answer
variable (c : Ctl) (r : HostResponse)

@[simp] theorem Ctl.answer_regBase : (c.answer r).regBase = c.regBase := rfl
@[simp] theorem Ctl.answer_dir : (c.answer r).dir = c.dir := rfl
@[simp] theorem Ctl.answer_ie : (c.answer r).ie = c.ie := rfl
@[simp] theorem Ctl.answer_done : (c.answer r).done = c.done := rfl
@[simp] theorem Ctl.answer_wbusy : (c.answer r).wbusy = c.wbusy := rfl
@[simp] theorem Ctl.answer_seq : (c.answer r).seq = c.seq := rfl
@[simp] theorem Ctl.answer_ph : (c.answer r).ph = c.ph := rfl
@[simp] theorem Ctl.answer_err : (c.answer r).err = c.err := rfl
@[simp] theorem Ctl.answer_blkcnt : (c.answer r).blkcnt = c.blkcnt := rfl
@[simp] theorem Ctl.answer_length : (c.answer r).length = c.length := rfl
@[simp] theorem Ctl.answer_srcAddr : (c.answer r).srcAddr = c.srcAddr := rfl
@[simp] theorem Ctl.answer_dstAddr : (c.answer r).dstAddr = c.dstAddr := rfl
@[simp] theorem Ctl.answer_keyLen : (c.answer r).keyLen = c.keyLen := rfl
@[simp] theorem Ctl.answer_key : (c.answer r).key = c.key := rfl
@[simp] theorem Ctl.answer_iv : (c.answer r).iv = c.iv := rfl
@[simp] theorem Ctl.answer_wx : (c.answer r).wx = c.wx := rfl
@[simp] theorem Ctl.answer_wy : (c.answer r).wy = c.wy := rfl
@[simp] theorem Ctl.answer_inBlk : (c.answer r).inBlk = c.inBlk := rfl
@[simp] theorem Ctl.answer_outBlk : (c.answer r).outBlk = c.outBlk := rfl
@[simp] theorem Ctl.answer_oracleOpen : (c.answer r).oracleOpen = c.oracleOpen := rfl
@[simp] theorem Ctl.answer_corePending : (c.answer r).corePending = c.corePending := rfl
@[simp] theorem Ctl.answer_coreReq : (c.answer r).coreReq = c.coreReq := rfl
@[simp] theorem Ctl.answer_coreResp : (c.answer r).coreResp = c.coreResp := rfl
@[simp] theorem Ctl.answer_irq : (c.answer r).irq = (c.ie && c.done) := rfl
@[simp] theorem Ctl.answer_cv : (c.answer r).cv = c.cv := rfl
@[simp] theorem Ctl.answer_ck : (c.answer r).ck = c.ck := rfl
@[simp] theorem Ctl.answer_draw : (c.answer r).draw = c.draw := rfl
@[simp] theorem Ctl.answer_hostResp : (c.answer r).hostResp = r := rfl
@[simp] theorem Ctl.answer_race : (c.answer r).race = c.race := rfl

end Answer

section RefreshIrq
variable (c : Ctl)

@[simp] theorem Ctl.refreshIrq_regBase : (c.refreshIrq).regBase = c.regBase := rfl
@[simp] theorem Ctl.refreshIrq_dir : (c.refreshIrq).dir = c.dir := rfl
@[simp] theorem Ctl.refreshIrq_ie : (c.refreshIrq).ie = c.ie := rfl
@[simp] theorem Ctl.refreshIrq_done : (c.refreshIrq).done = c.done := rfl
@[simp] theorem Ctl.refreshIrq_wbusy : (c.refreshIrq).wbusy = c.wbusy := rfl
@[simp] theorem Ctl.refreshIrq_seq : (c.refreshIrq).seq = c.seq := rfl
@[simp] theorem Ctl.refreshIrq_ph : (c.refreshIrq).ph = c.ph := rfl
@[simp] theorem Ctl.refreshIrq_err : (c.refreshIrq).err = c.err := rfl
@[simp] theorem Ctl.refreshIrq_blkcnt : (c.refreshIrq).blkcnt = c.blkcnt := rfl
@[simp] theorem Ctl.refreshIrq_length : (c.refreshIrq).length = c.length := rfl
@[simp] theorem Ctl.refreshIrq_srcAddr : (c.refreshIrq).srcAddr = c.srcAddr := rfl
@[simp] theorem Ctl.refreshIrq_dstAddr : (c.refreshIrq).dstAddr = c.dstAddr := rfl
@[simp] theorem Ctl.refreshIrq_keyLen : (c.refreshIrq).keyLen = c.keyLen := rfl
@[simp] theorem Ctl.refreshIrq_key : (c.refreshIrq).key = c.key := rfl
@[simp] theorem Ctl.refreshIrq_iv : (c.refreshIrq).iv = c.iv := rfl
@[simp] theorem Ctl.refreshIrq_wx : (c.refreshIrq).wx = c.wx := rfl
@[simp] theorem Ctl.refreshIrq_wy : (c.refreshIrq).wy = c.wy := rfl
@[simp] theorem Ctl.refreshIrq_inBlk : (c.refreshIrq).inBlk = c.inBlk := rfl
@[simp] theorem Ctl.refreshIrq_outBlk : (c.refreshIrq).outBlk = c.outBlk := rfl
@[simp] theorem Ctl.refreshIrq_oracleOpen : (c.refreshIrq).oracleOpen = c.oracleOpen := rfl
@[simp] theorem Ctl.refreshIrq_corePending : (c.refreshIrq).corePending = c.corePending := rfl
@[simp] theorem Ctl.refreshIrq_coreReq : (c.refreshIrq).coreReq = c.coreReq := rfl
@[simp] theorem Ctl.refreshIrq_coreResp : (c.refreshIrq).coreResp = c.coreResp := rfl
@[simp] theorem Ctl.refreshIrq_irq : (c.refreshIrq).irq = (c.ie && c.done) := rfl
@[simp] theorem Ctl.refreshIrq_cv : (c.refreshIrq).cv = c.cv := rfl
@[simp] theorem Ctl.refreshIrq_ck : (c.refreshIrq).ck = c.ck := rfl
@[simp] theorem Ctl.refreshIrq_draw : (c.refreshIrq).draw = c.draw := rfl
@[simp] theorem Ctl.refreshIrq_hostResp : (c.refreshIrq).hostResp = c.hostResp := rfl
@[simp] theorem Ctl.refreshIrq_race : (c.refreshIrq).race = c.race := rfl

end RefreshIrq

section Consume
variable (c : Ctl)

@[simp] theorem Ctl.consume_regBase : (c.consume).regBase = c.regBase := rfl
@[simp] theorem Ctl.consume_dir : (c.consume).dir = c.dir := rfl
@[simp] theorem Ctl.consume_ie : (c.consume).ie = c.ie := rfl
@[simp] theorem Ctl.consume_done : (c.consume).done = c.done := rfl
@[simp] theorem Ctl.consume_wbusy : (c.consume).wbusy = c.wbusy := rfl
@[simp] theorem Ctl.consume_seq : (c.consume).seq = c.seq := rfl
@[simp] theorem Ctl.consume_ph : (c.consume).ph = c.ph := rfl
@[simp] theorem Ctl.consume_err : (c.consume).err = c.err := rfl
@[simp] theorem Ctl.consume_blkcnt : (c.consume).blkcnt = c.blkcnt := rfl
@[simp] theorem Ctl.consume_length : (c.consume).length = c.length := rfl
@[simp] theorem Ctl.consume_srcAddr : (c.consume).srcAddr = c.srcAddr := rfl
@[simp] theorem Ctl.consume_dstAddr : (c.consume).dstAddr = c.dstAddr := rfl
@[simp] theorem Ctl.consume_keyLen : (c.consume).keyLen = c.keyLen := rfl
@[simp] theorem Ctl.consume_key : (c.consume).key = c.key := rfl
@[simp] theorem Ctl.consume_iv : (c.consume).iv = c.iv := rfl
@[simp] theorem Ctl.consume_wx : (c.consume).wx = c.wx := rfl
@[simp] theorem Ctl.consume_wy : (c.consume).wy = c.wy := rfl
@[simp] theorem Ctl.consume_inBlk : (c.consume).inBlk = c.inBlk := rfl
@[simp] theorem Ctl.consume_outBlk : (c.consume).outBlk = c.outBlk := rfl
@[simp] theorem Ctl.consume_oracleOpen : (c.consume).oracleOpen = c.oracleOpen := rfl
@[simp] theorem Ctl.consume_corePending : (c.consume).corePending = false := rfl
@[simp] theorem Ctl.consume_coreReq : (c.consume).coreReq = c.coreReq := rfl
@[simp] theorem Ctl.consume_coreResp : (c.consume).coreResp = none := rfl
@[simp] theorem Ctl.consume_irq : (c.consume).irq = c.irq := rfl
@[simp] theorem Ctl.consume_cv : (c.consume).cv = c.cv := rfl
@[simp] theorem Ctl.consume_ck : (c.consume).ck = c.ck := rfl
@[simp] theorem Ctl.consume_draw : (c.consume).draw = c.draw := rfl
@[simp] theorem Ctl.consume_hostResp : (c.consume).hostResp = c.hostResp := rfl
@[simp] theorem Ctl.consume_race : (c.consume).race = c.race := rfl

end Consume

section CoreAnswer
variable (c : Ctl) (ok : Bool) (b : Block)

@[simp] theorem Ctl.coreAnswer_regBase : (c.coreAnswer ok b).regBase = c.regBase := rfl
@[simp] theorem Ctl.coreAnswer_dir : (c.coreAnswer ok b).dir = c.dir := rfl
@[simp] theorem Ctl.coreAnswer_ie : (c.coreAnswer ok b).ie = c.ie := rfl
@[simp] theorem Ctl.coreAnswer_done : (c.coreAnswer ok b).done = c.done := rfl
@[simp] theorem Ctl.coreAnswer_wbusy : (c.coreAnswer ok b).wbusy = c.wbusy := rfl
@[simp] theorem Ctl.coreAnswer_seq : (c.coreAnswer ok b).seq = c.seq := rfl
@[simp] theorem Ctl.coreAnswer_ph : (c.coreAnswer ok b).ph = c.ph := rfl
@[simp] theorem Ctl.coreAnswer_err : (c.coreAnswer ok b).err = c.err := rfl
@[simp] theorem Ctl.coreAnswer_blkcnt : (c.coreAnswer ok b).blkcnt = c.blkcnt := rfl
@[simp] theorem Ctl.coreAnswer_length : (c.coreAnswer ok b).length = c.length := rfl
@[simp] theorem Ctl.coreAnswer_srcAddr : (c.coreAnswer ok b).srcAddr = c.srcAddr := rfl
@[simp] theorem Ctl.coreAnswer_dstAddr : (c.coreAnswer ok b).dstAddr = c.dstAddr := rfl
@[simp] theorem Ctl.coreAnswer_keyLen : (c.coreAnswer ok b).keyLen = c.keyLen := rfl
@[simp] theorem Ctl.coreAnswer_key : (c.coreAnswer ok b).key = c.key := rfl
@[simp] theorem Ctl.coreAnswer_iv : (c.coreAnswer ok b).iv = c.iv := rfl
@[simp] theorem Ctl.coreAnswer_wx : (c.coreAnswer ok b).wx = c.wx := rfl
@[simp] theorem Ctl.coreAnswer_wy : (c.coreAnswer ok b).wy = c.wy := rfl
@[simp] theorem Ctl.coreAnswer_inBlk : (c.coreAnswer ok b).inBlk = c.inBlk := rfl
@[simp] theorem Ctl.coreAnswer_outBlk : (c.coreAnswer ok b).outBlk = c.outBlk := rfl
@[simp] theorem Ctl.coreAnswer_oracleOpen : (c.coreAnswer ok b).oracleOpen = c.oracleOpen := rfl
@[simp] theorem Ctl.coreAnswer_corePending : (c.coreAnswer ok b).corePending = c.corePending := rfl
@[simp] theorem Ctl.coreAnswer_coreReq : (c.coreAnswer ok b).coreReq = none := rfl
@[simp] theorem Ctl.coreAnswer_coreResp : (c.coreAnswer ok b).coreResp = some ⟨ok, b⟩ := rfl
@[simp] theorem Ctl.coreAnswer_irq : (c.coreAnswer ok b).irq = c.irq := rfl
@[simp] theorem Ctl.coreAnswer_cv : (c.coreAnswer ok b).cv = c.cv := rfl
@[simp] theorem Ctl.coreAnswer_ck : (c.coreAnswer ok b).ck = c.ck := rfl
@[simp] theorem Ctl.coreAnswer_draw : (c.coreAnswer ok b).draw = c.draw := rfl
@[simp] theorem Ctl.coreAnswer_hostResp : (c.coreAnswer ok b).hostResp = c.hostResp := rfl
@[simp] theorem Ctl.coreAnswer_race : (c.coreAnswer ok b).race = c.race := rfl

end CoreAnswer

section SendRequest
variable (c : Ctl) (q : CoreWord) (p : Phase)

@[simp] theorem Ctl.sendRequest_regBase : (c.sendRequest q p).regBase = c.regBase := rfl
@[simp] theorem Ctl.sendRequest_dir : (c.sendRequest q p).dir = c.dir := rfl
@[simp] theorem Ctl.sendRequest_ie : (c.sendRequest q p).ie = c.ie := rfl
@[simp] theorem Ctl.sendRequest_done : (c.sendRequest q p).done = c.done := rfl
@[simp] theorem Ctl.sendRequest_wbusy : (c.sendRequest q p).wbusy = c.wbusy := rfl
@[simp] theorem Ctl.sendRequest_seq : (c.sendRequest q p).seq = c.seq := rfl
@[simp] theorem Ctl.sendRequest_ph : (c.sendRequest q p).ph = p := rfl
@[simp] theorem Ctl.sendRequest_err : (c.sendRequest q p).err = c.err := rfl
@[simp] theorem Ctl.sendRequest_blkcnt : (c.sendRequest q p).blkcnt = c.blkcnt := rfl
@[simp] theorem Ctl.sendRequest_length : (c.sendRequest q p).length = c.length := rfl
@[simp] theorem Ctl.sendRequest_srcAddr : (c.sendRequest q p).srcAddr = c.srcAddr := rfl
@[simp] theorem Ctl.sendRequest_dstAddr : (c.sendRequest q p).dstAddr = c.dstAddr := rfl
@[simp] theorem Ctl.sendRequest_keyLen : (c.sendRequest q p).keyLen = c.keyLen := rfl
@[simp] theorem Ctl.sendRequest_key : (c.sendRequest q p).key = c.key := rfl
@[simp] theorem Ctl.sendRequest_iv : (c.sendRequest q p).iv = c.iv := rfl
@[simp] theorem Ctl.sendRequest_wx : (c.sendRequest q p).wx = c.wx := rfl
@[simp] theorem Ctl.sendRequest_wy : (c.sendRequest q p).wy = c.wy := rfl
@[simp] theorem Ctl.sendRequest_inBlk : (c.sendRequest q p).inBlk = c.inBlk := rfl
@[simp] theorem Ctl.sendRequest_outBlk : (c.sendRequest q p).outBlk = c.outBlk := rfl
@[simp] theorem Ctl.sendRequest_oracleOpen : (c.sendRequest q p).oracleOpen = c.oracleOpen := rfl
@[simp] theorem Ctl.sendRequest_corePending : (c.sendRequest q p).corePending = true := rfl
@[simp] theorem Ctl.sendRequest_coreReq : (c.sendRequest q p).coreReq = some q := rfl
@[simp] theorem Ctl.sendRequest_coreResp : (c.sendRequest q p).coreResp = c.coreResp := rfl
@[simp] theorem Ctl.sendRequest_irq : (c.sendRequest q p).irq = c.irq := rfl
@[simp] theorem Ctl.sendRequest_cv : (c.sendRequest q p).cv = c.cv := rfl
@[simp] theorem Ctl.sendRequest_ck : (c.sendRequest q p).ck = c.ck := rfl
@[simp] theorem Ctl.sendRequest_draw : (c.sendRequest q p).draw = c.draw := rfl
@[simp] theorem Ctl.sendRequest_hostResp : (c.sendRequest q p).hostResp = c.hostResp := rfl
@[simp] theorem Ctl.sendRequest_race : (c.sendRequest q p).race = c.race := rfl

end SendRequest

section ClearFlags
variable (c : Ctl) (d : Word)

@[simp] theorem Ctl.clearFlags_regBase : (c.clearFlags d).regBase = c.regBase := rfl
@[simp] theorem Ctl.clearFlags_dir : (c.clearFlags d).dir = c.dir := rfl
@[simp] theorem Ctl.clearFlags_ie : (c.clearFlags d).ie = c.ie := rfl
@[simp] theorem Ctl.clearFlags_done : (c.clearFlags d).done = (c.done && !d.getLsbD 1) := rfl
@[simp] theorem Ctl.clearFlags_wbusy : (c.clearFlags d).wbusy = (c.wbusy && !d.getLsbD 2) := rfl
@[simp] theorem Ctl.clearFlags_seq : (c.clearFlags d).seq = c.seq := rfl
@[simp] theorem Ctl.clearFlags_ph : (c.clearFlags d).ph = c.ph := rfl
@[simp] theorem Ctl.clearFlags_err : (c.clearFlags d).err = c.err := rfl
@[simp] theorem Ctl.clearFlags_blkcnt : (c.clearFlags d).blkcnt = c.blkcnt := rfl
@[simp] theorem Ctl.clearFlags_length : (c.clearFlags d).length = c.length := rfl
@[simp] theorem Ctl.clearFlags_srcAddr : (c.clearFlags d).srcAddr = c.srcAddr := rfl
@[simp] theorem Ctl.clearFlags_dstAddr : (c.clearFlags d).dstAddr = c.dstAddr := rfl
@[simp] theorem Ctl.clearFlags_keyLen : (c.clearFlags d).keyLen = c.keyLen := rfl
@[simp] theorem Ctl.clearFlags_key : (c.clearFlags d).key = c.key := rfl
@[simp] theorem Ctl.clearFlags_iv : (c.clearFlags d).iv = c.iv := rfl
@[simp] theorem Ctl.clearFlags_wx : (c.clearFlags d).wx = c.wx := rfl
@[simp] theorem Ctl.clearFlags_wy : (c.clearFlags d).wy = c.wy := rfl
@[simp] theorem Ctl.clearFlags_inBlk : (c.clearFlags d).inBlk = c.inBlk := rfl
@[simp] theorem Ctl.clearFlags_outBlk : (c.clearFlags d).outBlk = c.outBlk := rfl
@[simp] theorem Ctl.clearFlags_oracleOpen : (c.clearFlags d).oracleOpen = c.oracleOpen := rfl
@[simp] theorem Ctl.clearFlags_corePending : (c.clearFlags d).corePending = c.corePending := rfl
@[simp] theorem Ctl.clearFlags_coreReq : (c.clearFlags d).coreReq = c.coreReq := rfl
@[simp] theorem Ctl.clearFlags_coreResp : (c.clearFlags d).coreResp = c.coreResp := rfl
@[simp] theorem Ctl.clearFlags_irq : (c.clearFlags d).irq = c.irq := rfl
@[simp] theorem Ctl.clearFlags_cv : (c.clearFlags d).cv = c.cv := rfl
@[simp] theorem Ctl.clearFlags_ck : (c.clearFlags d).ck = c.ck := rfl
@[simp] theorem Ctl.clearFlags_draw : (c.clearFlags d).draw = c.draw := rfl
@[simp] theorem Ctl.clearFlags_hostResp : (c.clearFlags d).hostResp = c.hostResp := rfl
@[simp] theorem Ctl.clearFlags_race : (c.clearFlags d).race = c.race := rfl

end ClearFlags

section AcceptStart
variable (c : Ctl) (rivals : List BufferWindow)

@[simp] theorem Ctl.acceptStart_regBase : (c.acceptStart rivals).regBase = c.regBase := rfl
@[simp] theorem Ctl.acceptStart_dir : (c.acceptStart rivals).dir = c.dir := rfl
@[simp] theorem Ctl.acceptStart_ie : (c.acceptStart rivals).ie = c.ie := rfl
@[simp] theorem Ctl.acceptStart_done : (c.acceptStart rivals).done = false := rfl
@[simp] theorem Ctl.acceptStart_wbusy : (c.acceptStart rivals).wbusy = c.wbusy := rfl
@[simp] theorem Ctl.acceptStart_seq : (c.acceptStart rivals).seq = SeqState.validating := rfl
@[simp] theorem Ctl.acceptStart_ph : (c.acceptStart rivals).ph = Phase.none := rfl
@[simp] theorem Ctl.acceptStart_err : (c.acceptStart rivals).err = ErrCode.none := rfl
@[simp] theorem Ctl.acceptStart_blkcnt : (c.acceptStart rivals).blkcnt = 0#32 := rfl
@[simp] theorem Ctl.acceptStart_length : (c.acceptStart rivals).length = c.length := rfl
@[simp] theorem Ctl.acceptStart_srcAddr : (c.acceptStart rivals).srcAddr = c.srcAddr := rfl
@[simp] theorem Ctl.acceptStart_dstAddr : (c.acceptStart rivals).dstAddr = c.dstAddr := rfl
@[simp] theorem Ctl.acceptStart_keyLen : (c.acceptStart rivals).keyLen = c.keyLen := rfl
@[simp] theorem Ctl.acceptStart_key : (c.acceptStart rivals).key = c.key := rfl
@[simp] theorem Ctl.acceptStart_iv : (c.acceptStart rivals).iv = c.iv := rfl
@[simp] theorem Ctl.acceptStart_wx : (c.acceptStart rivals).wx = highHalf c.iv := rfl
@[simp] theorem Ctl.acceptStart_wy : (c.acceptStart rivals).wy = lowHalf c.iv := rfl
@[simp] theorem Ctl.acceptStart_inBlk : (c.acceptStart rivals).inBlk = c.inBlk := rfl
@[simp] theorem Ctl.acceptStart_outBlk : (c.acceptStart rivals).outBlk = c.outBlk := rfl
@[simp] theorem Ctl.acceptStart_oracleOpen : (c.acceptStart rivals).oracleOpen = c.oracleOpen := rfl
@[simp] theorem Ctl.acceptStart_corePending : (c.acceptStart rivals).corePending = c.corePending := rfl
@[simp] theorem Ctl.acceptStart_coreReq : (c.acceptStart rivals).coreReq = c.coreReq := rfl
@[simp] theorem Ctl.acceptStart_coreResp : (c.acceptStart rivals).coreResp = c.coreResp := rfl
@[simp] theorem Ctl.acceptStart_irq : (c.acceptStart rivals).irq = c.irq := rfl
@[simp] theorem Ctl.acceptStart_cv : (c.acceptStart rivals).cv = c.cv := rfl
@[simp] theorem Ctl.acceptStart_ck : (c.acceptStart rivals).ck = c.ck := rfl
@[simp] theorem Ctl.acceptStart_draw : (c.acceptStart rivals).draw = c.draw := rfl
@[simp] theorem Ctl.acceptStart_hostResp : (c.acceptStart rivals).hostResp = c.hostResp := rfl
@[simp] theorem Ctl.acceptStart_race : (c.acceptStart rivals).race =
    ⟨some ⟨c.srcAddr, c.dstAddr, 16 * c.nBlocks.toNat, 0⟩, c.unacquired, [], rivals⟩ := rfl

end AcceptStart

/-! ### Updates that depend on the state: what they never change -/

section Fail
variable (c : Ctl) (e : ErrCode)

@[simp] theorem Ctl.fail_regBase : (c.fail e).regBase = c.regBase := by unfold Ctl.fail; split <;> rfl
@[simp] theorem Ctl.fail_dir : (c.fail e).dir = c.dir := by unfold Ctl.fail; split <;> rfl
@[simp] theorem Ctl.fail_ie : (c.fail e).ie = c.ie := by unfold Ctl.fail; split <;> rfl
@[simp] theorem Ctl.fail_wbusy : (c.fail e).wbusy = c.wbusy := by unfold Ctl.fail; split <;> rfl
@[simp] theorem Ctl.fail_blkcnt : (c.fail e).blkcnt = c.blkcnt := by unfold Ctl.fail; split <;> rfl
@[simp] theorem Ctl.fail_length : (c.fail e).length = c.length := by unfold Ctl.fail; split <;> rfl
@[simp] theorem Ctl.fail_srcAddr : (c.fail e).srcAddr = c.srcAddr := by unfold Ctl.fail; split <;> rfl
@[simp] theorem Ctl.fail_dstAddr : (c.fail e).dstAddr = c.dstAddr := by unfold Ctl.fail; split <;> rfl
@[simp] theorem Ctl.fail_keyLen : (c.fail e).keyLen = c.keyLen := by unfold Ctl.fail; split <;> rfl
@[simp] theorem Ctl.fail_key : (c.fail e).key = c.key := by unfold Ctl.fail; split <;> rfl
@[simp] theorem Ctl.fail_iv : (c.fail e).iv = c.iv := by unfold Ctl.fail; split <;> rfl
@[simp] theorem Ctl.fail_wx : (c.fail e).wx = c.wx := by unfold Ctl.fail; split <;> rfl
@[simp] theorem Ctl.fail_wy : (c.fail e).wy = c.wy := by unfold Ctl.fail; split <;> rfl
@[simp] theorem Ctl.fail_inBlk : (c.fail e).inBlk = c.inBlk := by unfold Ctl.fail; split <;> rfl
@[simp] theorem Ctl.fail_outBlk : (c.fail e).outBlk = c.outBlk := by unfold Ctl.fail; split <;> rfl
@[simp] theorem Ctl.fail_oracleOpen : (c.fail e).oracleOpen = c.oracleOpen := by unfold Ctl.fail; split <;> rfl
@[simp] theorem Ctl.fail_corePending : (c.fail e).corePending = c.corePending :=
    by unfold Ctl.fail; split <;> rfl
@[simp] theorem Ctl.fail_coreReq : (c.fail e).coreReq = c.coreReq := by unfold Ctl.fail; split <;> rfl
@[simp] theorem Ctl.fail_coreResp : (c.fail e).coreResp = c.coreResp := by unfold Ctl.fail; split <;> rfl
@[simp] theorem Ctl.fail_irq : (c.fail e).irq = c.irq := by unfold Ctl.fail; split <;> rfl
@[simp] theorem Ctl.fail_cv : (c.fail e).cv = c.cv := by unfold Ctl.fail; split <;> rfl
@[simp] theorem Ctl.fail_ck : (c.fail e).ck = c.ck := by unfold Ctl.fail; split <;> rfl
@[simp] theorem Ctl.fail_draw : (c.fail e).draw = c.draw := by unfold Ctl.fail; split <;> rfl
@[simp] theorem Ctl.fail_hostResp : (c.fail e).hostResp = c.hostResp := by unfold Ctl.fail; split <;> rfl
@[simp] theorem Ctl.fail_race : (c.fail e).race = c.race := by unfold Ctl.fail; split <;> rfl

end Fail

section Commit
variable (c : Ctl)

@[simp] theorem Ctl.commit_regBase : (c.commit).regBase = c.regBase := by unfold Ctl.commit; split <;> rfl
@[simp] theorem Ctl.commit_dir : (c.commit).dir = c.dir := by unfold Ctl.commit; split <;> rfl
@[simp] theorem Ctl.commit_ie : (c.commit).ie = c.ie := by unfold Ctl.commit; split <;> rfl
@[simp] theorem Ctl.commit_done : (c.commit).done = c.done := by unfold Ctl.commit; split <;> rfl
@[simp] theorem Ctl.commit_wbusy : (c.commit).wbusy = c.wbusy := by unfold Ctl.commit; split <;> rfl
@[simp] theorem Ctl.commit_seq : (c.commit).seq = c.seq := by unfold Ctl.commit; split <;> rfl
@[simp] theorem Ctl.commit_ph : (c.commit).ph = c.ph := by unfold Ctl.commit; split <;> rfl
@[simp] theorem Ctl.commit_err : (c.commit).err = c.err := by unfold Ctl.commit; split <;> rfl
@[simp] theorem Ctl.commit_blkcnt : (c.commit).blkcnt = c.blkcnt := by unfold Ctl.commit; split <;> rfl
@[simp] theorem Ctl.commit_length : (c.commit).length = c.length := by unfold Ctl.commit; split <;> rfl
@[simp] theorem Ctl.commit_srcAddr : (c.commit).srcAddr = c.srcAddr := by unfold Ctl.commit; split <;> rfl
@[simp] theorem Ctl.commit_dstAddr : (c.commit).dstAddr = c.dstAddr := by unfold Ctl.commit; split <;> rfl
@[simp] theorem Ctl.commit_keyLen : (c.commit).keyLen = c.keyLen := by unfold Ctl.commit; split <;> rfl
@[simp] theorem Ctl.commit_key : (c.commit).key = c.key := by unfold Ctl.commit; split <;> rfl
@[simp] theorem Ctl.commit_wx : (c.commit).wx = c.wx := by unfold Ctl.commit; split <;> rfl
@[simp] theorem Ctl.commit_wy : (c.commit).wy = c.wy := by unfold Ctl.commit; split <;> rfl
@[simp] theorem Ctl.commit_inBlk : (c.commit).inBlk = c.inBlk := by unfold Ctl.commit; split <;> rfl
@[simp] theorem Ctl.commit_outBlk : (c.commit).outBlk = c.outBlk := by unfold Ctl.commit; split <;> rfl
@[simp] theorem Ctl.commit_oracleOpen : (c.commit).oracleOpen = c.oracleOpen :=
    by unfold Ctl.commit; split <;> rfl
@[simp] theorem Ctl.commit_corePending : (c.commit).corePending = c.corePending :=
    by unfold Ctl.commit; split <;> rfl
@[simp] theorem Ctl.commit_coreReq : (c.commit).coreReq = c.coreReq := by unfold Ctl.commit; split <;> rfl
@[simp] theorem Ctl.commit_coreResp : (c.commit).coreResp = c.coreResp := by unfold Ctl.commit; split <;> rfl
@[simp] theorem Ctl.commit_irq : (c.commit).irq = c.irq := by unfold Ctl.commit; split <;> rfl
@[simp] theorem Ctl.commit_cv : (c.commit).cv = c.cv := by unfold Ctl.commit; split <;> rfl
@[simp] theorem Ctl.commit_ck : (c.commit).ck = c.ck := by unfold Ctl.commit; split <;> rfl
@[simp] theorem Ctl.commit_draw : (c.commit).draw = c.draw := by unfold Ctl.commit; split <;> rfl
@[simp] theorem Ctl.commit_hostResp : (c.commit).hostResp = c.hostResp := by unfold Ctl.commit; split <;> rfl
@[simp] theorem Ctl.commit_race : (c.commit).race = c.race := by unfold Ctl.commit; split <;> rfl

end Commit

section Acquire
variable (c : Ctl)

@[simp] theorem Ctl.acquire_regBase : (c.acquire).regBase = c.regBase := by unfold Ctl.acquire; split <;> rfl
@[simp] theorem Ctl.acquire_dir : (c.acquire).dir = c.dir := by unfold Ctl.acquire; split <;> rfl
@[simp] theorem Ctl.acquire_ie : (c.acquire).ie = c.ie := by unfold Ctl.acquire; split <;> rfl
@[simp] theorem Ctl.acquire_done : (c.acquire).done = c.done := by unfold Ctl.acquire; split <;> rfl
@[simp] theorem Ctl.acquire_wbusy : (c.acquire).wbusy = c.wbusy := by unfold Ctl.acquire; split <;> rfl
@[simp] theorem Ctl.acquire_seq : (c.acquire).seq = c.seq := by unfold Ctl.acquire; split <;> rfl
@[simp] theorem Ctl.acquire_ph : (c.acquire).ph = c.ph := by unfold Ctl.acquire; split <;> rfl
@[simp] theorem Ctl.acquire_err : (c.acquire).err = c.err := by unfold Ctl.acquire; split <;> rfl
@[simp] theorem Ctl.acquire_blkcnt : (c.acquire).blkcnt = c.blkcnt := by unfold Ctl.acquire; split <;> rfl
@[simp] theorem Ctl.acquire_length : (c.acquire).length = c.length := by unfold Ctl.acquire; split <;> rfl
@[simp] theorem Ctl.acquire_srcAddr : (c.acquire).srcAddr = c.srcAddr := by unfold Ctl.acquire; split <;> rfl
@[simp] theorem Ctl.acquire_dstAddr : (c.acquire).dstAddr = c.dstAddr := by unfold Ctl.acquire; split <;> rfl
@[simp] theorem Ctl.acquire_keyLen : (c.acquire).keyLen = c.keyLen := by unfold Ctl.acquire; split <;> rfl
@[simp] theorem Ctl.acquire_key : (c.acquire).key = c.key := by unfold Ctl.acquire; split <;> rfl
@[simp] theorem Ctl.acquire_iv : (c.acquire).iv = c.iv := by unfold Ctl.acquire; split <;> rfl
@[simp] theorem Ctl.acquire_wx : (c.acquire).wx = c.wx := by unfold Ctl.acquire; split <;> rfl
@[simp] theorem Ctl.acquire_wy : (c.acquire).wy = c.wy := by unfold Ctl.acquire; split <;> rfl
@[simp] theorem Ctl.acquire_inBlk : (c.acquire).inBlk = c.inBlk := by unfold Ctl.acquire; split <;> rfl
@[simp] theorem Ctl.acquire_outBlk : (c.acquire).outBlk = c.outBlk := by unfold Ctl.acquire; split <;> rfl
@[simp] theorem Ctl.acquire_oracleOpen : (c.acquire).oracleOpen = c.oracleOpen :=
    by unfold Ctl.acquire; split <;> rfl
@[simp] theorem Ctl.acquire_corePending : (c.acquire).corePending = c.corePending :=
    by unfold Ctl.acquire; split <;> rfl
@[simp] theorem Ctl.acquire_coreReq : (c.acquire).coreReq = c.coreReq := by unfold Ctl.acquire; split <;> rfl
@[simp] theorem Ctl.acquire_coreResp : (c.acquire).coreResp = c.coreResp := by unfold Ctl.acquire; split <;> rfl
@[simp] theorem Ctl.acquire_irq : (c.acquire).irq = c.irq := by unfold Ctl.acquire; split <;> rfl
@[simp] theorem Ctl.acquire_cv : (c.acquire).cv = c.cv := by unfold Ctl.acquire; split <;> rfl
@[simp] theorem Ctl.acquire_ck : (c.acquire).ck = c.ck := by unfold Ctl.acquire; split <;> rfl
@[simp] theorem Ctl.acquire_draw : (c.acquire).draw = c.draw := by unfold Ctl.acquire; split <;> rfl
@[simp] theorem Ctl.acquire_hostResp : (c.acquire).hostResp = c.hostResp := by unfold Ctl.acquire; split <;> rfl
@[simp] theorem Ctl.acquire_race : (c.acquire).race = if c.done then .none else c.race := by
  unfold Ctl.acquire; split <;> rfl

end Acquire

section MarkForeign
variable (a : Addr) (c : Ctl)

@[simp] theorem Ctl.markForeign_regBase : (c.markForeign a).regBase = c.regBase :=
    by unfold Ctl.markForeign; split <;> rfl
@[simp] theorem Ctl.markForeign_dir : (c.markForeign a).dir = c.dir := by unfold Ctl.markForeign; split <;> rfl
@[simp] theorem Ctl.markForeign_ie : (c.markForeign a).ie = c.ie := by unfold Ctl.markForeign; split <;> rfl
@[simp] theorem Ctl.markForeign_done : (c.markForeign a).done = c.done :=
    by unfold Ctl.markForeign; split <;> rfl
@[simp] theorem Ctl.markForeign_wbusy : (c.markForeign a).wbusy = c.wbusy :=
    by unfold Ctl.markForeign; split <;> rfl
@[simp] theorem Ctl.markForeign_seq : (c.markForeign a).seq = c.seq := by unfold Ctl.markForeign; split <;> rfl
@[simp] theorem Ctl.markForeign_ph : (c.markForeign a).ph = c.ph := by unfold Ctl.markForeign; split <;> rfl
@[simp] theorem Ctl.markForeign_err : (c.markForeign a).err = c.err := by unfold Ctl.markForeign; split <;> rfl
@[simp] theorem Ctl.markForeign_blkcnt : (c.markForeign a).blkcnt = c.blkcnt :=
    by unfold Ctl.markForeign; split <;> rfl
@[simp] theorem Ctl.markForeign_length : (c.markForeign a).length = c.length :=
    by unfold Ctl.markForeign; split <;> rfl
@[simp] theorem Ctl.markForeign_srcAddr : (c.markForeign a).srcAddr = c.srcAddr :=
    by unfold Ctl.markForeign; split <;> rfl
@[simp] theorem Ctl.markForeign_dstAddr : (c.markForeign a).dstAddr = c.dstAddr :=
    by unfold Ctl.markForeign; split <;> rfl
@[simp] theorem Ctl.markForeign_keyLen : (c.markForeign a).keyLen = c.keyLen :=
    by unfold Ctl.markForeign; split <;> rfl
@[simp] theorem Ctl.markForeign_key : (c.markForeign a).key = c.key := by unfold Ctl.markForeign; split <;> rfl
@[simp] theorem Ctl.markForeign_iv : (c.markForeign a).iv = c.iv := by unfold Ctl.markForeign; split <;> rfl
@[simp] theorem Ctl.markForeign_wx : (c.markForeign a).wx = c.wx := by unfold Ctl.markForeign; split <;> rfl
@[simp] theorem Ctl.markForeign_wy : (c.markForeign a).wy = c.wy := by unfold Ctl.markForeign; split <;> rfl
@[simp] theorem Ctl.markForeign_inBlk : (c.markForeign a).inBlk = c.inBlk :=
    by unfold Ctl.markForeign; split <;> rfl
@[simp] theorem Ctl.markForeign_outBlk : (c.markForeign a).outBlk = c.outBlk :=
    by unfold Ctl.markForeign; split <;> rfl
@[simp] theorem Ctl.markForeign_oracleOpen : (c.markForeign a).oracleOpen = c.oracleOpen :=
    by unfold Ctl.markForeign; split <;> rfl
@[simp] theorem Ctl.markForeign_corePending : (c.markForeign a).corePending = c.corePending :=
    by unfold Ctl.markForeign; split <;> rfl
@[simp] theorem Ctl.markForeign_coreReq : (c.markForeign a).coreReq = c.coreReq :=
    by unfold Ctl.markForeign; split <;> rfl
@[simp] theorem Ctl.markForeign_coreResp : (c.markForeign a).coreResp = c.coreResp :=
    by unfold Ctl.markForeign; split <;> rfl
@[simp] theorem Ctl.markForeign_irq : (c.markForeign a).irq = c.irq := by unfold Ctl.markForeign; split <;> rfl
@[simp] theorem Ctl.markForeign_cv : (c.markForeign a).cv = c.cv := by unfold Ctl.markForeign; split <;> rfl
@[simp] theorem Ctl.markForeign_ck : (c.markForeign a).ck = c.ck := by unfold Ctl.markForeign; split <;> rfl
@[simp] theorem Ctl.markForeign_draw : (c.markForeign a).draw = c.draw :=
    by unfold Ctl.markForeign; split <;> rfl
@[simp] theorem Ctl.markForeign_hostResp : (c.markForeign a).hostResp = c.hostResp :=
    by unfold Ctl.markForeign; split <;> rfl
@[simp] theorem Ctl.markForeign_window : (c.markForeign a).race.window = c.race.window := by
  unfold Ctl.markForeign; split <;> rfl
@[simp] theorem Ctl.markForeign_earlier : (c.markForeign a).race.earlier = c.race.earlier := by
  unfold Ctl.markForeign; split <;> rfl
@[simp] theorem Ctl.markForeign_rivals : (c.markForeign a).race.rivals = c.race.rivals := by
  unfold Ctl.markForeign; split <;> rfl
/-- Everything `markForeign` can do: the foreign bytes gain `a` exactly when the running transform covers it. -/
theorem Ctl.mem_markForeign (b : Nat) : b ∈ (c.markForeign a).race.foreign ↔
    b ∈ c.race.foreign ∨ b = a.toNat ∧ c.running.any (·.covers a) = true := by
  unfold Ctl.markForeign
  split <;> rename_i h <;> simp at h ⊢
  · grind
  · grind

end MarkForeign

section NoteWritten
variable (n : Nat) (c : Ctl)

@[simp] theorem Ctl.noteWritten_regBase : (c.noteWritten n).regBase = c.regBase := rfl
@[simp] theorem Ctl.noteWritten_dir : (c.noteWritten n).dir = c.dir := rfl
@[simp] theorem Ctl.noteWritten_ie : (c.noteWritten n).ie = c.ie := rfl
@[simp] theorem Ctl.noteWritten_done : (c.noteWritten n).done = c.done := rfl
@[simp] theorem Ctl.noteWritten_wbusy : (c.noteWritten n).wbusy = c.wbusy := rfl
@[simp] theorem Ctl.noteWritten_seq : (c.noteWritten n).seq = c.seq := rfl
@[simp] theorem Ctl.noteWritten_ph : (c.noteWritten n).ph = c.ph := rfl
@[simp] theorem Ctl.noteWritten_err : (c.noteWritten n).err = c.err := rfl
@[simp] theorem Ctl.noteWritten_blkcnt : (c.noteWritten n).blkcnt = c.blkcnt := rfl
@[simp] theorem Ctl.noteWritten_length : (c.noteWritten n).length = c.length := rfl
@[simp] theorem Ctl.noteWritten_srcAddr : (c.noteWritten n).srcAddr = c.srcAddr := rfl
@[simp] theorem Ctl.noteWritten_dstAddr : (c.noteWritten n).dstAddr = c.dstAddr := rfl
@[simp] theorem Ctl.noteWritten_keyLen : (c.noteWritten n).keyLen = c.keyLen := rfl
@[simp] theorem Ctl.noteWritten_key : (c.noteWritten n).key = c.key := rfl
@[simp] theorem Ctl.noteWritten_iv : (c.noteWritten n).iv = c.iv := rfl
@[simp] theorem Ctl.noteWritten_wx : (c.noteWritten n).wx = c.wx := rfl
@[simp] theorem Ctl.noteWritten_wy : (c.noteWritten n).wy = c.wy := rfl
@[simp] theorem Ctl.noteWritten_inBlk : (c.noteWritten n).inBlk = c.inBlk := rfl
@[simp] theorem Ctl.noteWritten_outBlk : (c.noteWritten n).outBlk = c.outBlk := rfl
@[simp] theorem Ctl.noteWritten_oracleOpen : (c.noteWritten n).oracleOpen = c.oracleOpen := rfl
@[simp] theorem Ctl.noteWritten_corePending : (c.noteWritten n).corePending = c.corePending := rfl
@[simp] theorem Ctl.noteWritten_coreReq : (c.noteWritten n).coreReq = c.coreReq := rfl
@[simp] theorem Ctl.noteWritten_coreResp : (c.noteWritten n).coreResp = c.coreResp := rfl
@[simp] theorem Ctl.noteWritten_irq : (c.noteWritten n).irq = c.irq := rfl
@[simp] theorem Ctl.noteWritten_cv : (c.noteWritten n).cv = c.cv := rfl
@[simp] theorem Ctl.noteWritten_ck : (c.noteWritten n).ck = c.ck := rfl
@[simp] theorem Ctl.noteWritten_draw : (c.noteWritten n).draw = c.draw := rfl
@[simp] theorem Ctl.noteWritten_hostResp : (c.noteWritten n).hostResp = c.hostResp := rfl
@[simp] theorem Ctl.noteWritten_race : (c.noteWritten n).race =
    { c.race with window := c.race.window.map fun w => { w with written := w.written + n } } := rfl
@[simp] theorem Ctl.noteWritten_zero : c.noteWritten 0 = c := by
  obtain ⟨⟩ := c
  simp [Ctl.noteWritten]

end NoteWritten

section FinishBlock
variable (c : Ctl)

@[simp] theorem Ctl.finishBlock_regBase : (c.finishBlock).regBase = c.regBase :=
    by unfold Ctl.finishBlock; dsimp only; split <;> rfl
@[simp] theorem Ctl.finishBlock_dir : (c.finishBlock).dir = c.dir :=
    by unfold Ctl.finishBlock; dsimp only; split <;> rfl
@[simp] theorem Ctl.finishBlock_ie : (c.finishBlock).ie = c.ie :=
    by unfold Ctl.finishBlock; dsimp only; split <;> rfl
@[simp] theorem Ctl.finishBlock_done : (c.finishBlock).done = c.done :=
    by unfold Ctl.finishBlock; dsimp only; split <;> rfl
@[simp] theorem Ctl.finishBlock_wbusy : (c.finishBlock).wbusy = c.wbusy :=
    by unfold Ctl.finishBlock; dsimp only; split <;> rfl
@[simp] theorem Ctl.finishBlock_err : (c.finishBlock).err = c.err :=
    by unfold Ctl.finishBlock; dsimp only; split <;> rfl
@[simp] theorem Ctl.finishBlock_length : (c.finishBlock).length = c.length :=
    by unfold Ctl.finishBlock; dsimp only; split <;> rfl
@[simp] theorem Ctl.finishBlock_srcAddr : (c.finishBlock).srcAddr = c.srcAddr :=
    by unfold Ctl.finishBlock; dsimp only; split <;> rfl
@[simp] theorem Ctl.finishBlock_dstAddr : (c.finishBlock).dstAddr = c.dstAddr :=
    by unfold Ctl.finishBlock; dsimp only; split <;> rfl
@[simp] theorem Ctl.finishBlock_keyLen : (c.finishBlock).keyLen = c.keyLen :=
    by unfold Ctl.finishBlock; dsimp only; split <;> rfl
@[simp] theorem Ctl.finishBlock_key : (c.finishBlock).key = c.key :=
    by unfold Ctl.finishBlock; dsimp only; split <;> rfl
@[simp] theorem Ctl.finishBlock_iv : (c.finishBlock).iv = c.iv :=
    by unfold Ctl.finishBlock; dsimp only; split <;> rfl
@[simp] theorem Ctl.finishBlock_inBlk : (c.finishBlock).inBlk = c.inBlk :=
    by unfold Ctl.finishBlock; dsimp only; split <;> rfl
@[simp] theorem Ctl.finishBlock_outBlk : (c.finishBlock).outBlk = c.outBlk :=
    by unfold Ctl.finishBlock; dsimp only; split <;> rfl
@[simp] theorem Ctl.finishBlock_oracleOpen : (c.finishBlock).oracleOpen = c.oracleOpen :=
    by unfold Ctl.finishBlock; dsimp only; split <;> rfl
@[simp] theorem Ctl.finishBlock_corePending : (c.finishBlock).corePending = c.corePending :=
    by unfold Ctl.finishBlock; dsimp only; split <;> rfl
@[simp] theorem Ctl.finishBlock_coreReq : (c.finishBlock).coreReq = c.coreReq :=
    by unfold Ctl.finishBlock; dsimp only; split <;> rfl
@[simp] theorem Ctl.finishBlock_coreResp : (c.finishBlock).coreResp = c.coreResp :=
    by unfold Ctl.finishBlock; dsimp only; split <;> rfl
@[simp] theorem Ctl.finishBlock_irq : (c.finishBlock).irq = c.irq :=
    by unfold Ctl.finishBlock; dsimp only; split <;> rfl
@[simp] theorem Ctl.finishBlock_cv : (c.finishBlock).cv = c.cv :=
    by unfold Ctl.finishBlock; dsimp only; split <;> rfl
@[simp] theorem Ctl.finishBlock_ck : (c.finishBlock).ck = c.ck :=
    by unfold Ctl.finishBlock; dsimp only; split <;> rfl
@[simp] theorem Ctl.finishBlock_draw : (c.finishBlock).draw = c.draw :=
    by unfold Ctl.finishBlock; dsimp only; split <;> rfl
@[simp] theorem Ctl.finishBlock_hostResp : (c.finishBlock).hostResp = c.hostResp :=
    by unfold Ctl.finishBlock; dsimp only; split <;> rfl
@[simp] theorem Ctl.finishBlock_race : (c.finishBlock).race = (c.noteWritten 16).race :=
    by unfold Ctl.finishBlock; dsimp only; split <;> rfl

end FinishBlock

@[simp] theorem Ctl.fail_err (c : Ctl) (e : ErrCode) : (c.fail e).err = e := by
  unfold Ctl.fail; split <;> rfl

@[simp] theorem Ctl.finishBlock_wx (c : Ctl) : c.finishBlock.wx = sel c.dir c.inBlk c.outBlk := by
  unfold Ctl.finishBlock; dsimp only; split <;> rfl

@[simp] theorem Ctl.finishBlock_wy (c : Ctl) : c.finishBlock.wy = sel c.dir c.outBlk c.inBlk := by
  unfold Ctl.finishBlock; dsimp only; split <;> rfl

@[simp] theorem Ctl.finishBlock_blkcnt (c : Ctl) : c.finishBlock.blkcnt = c.blkcnt + 1#32 := by
  unfold Ctl.finishBlock; dsimp only; split <;> rfl

/-! ### What is computed from the fields an update keeps -/

@[simp] theorem Ctl.answer_busy (c : Ctl) (r : HostResponse) : (c.answer r).busy = c.busy := rfl
@[simp] theorem Ctl.refreshIrq_busy (c : Ctl) : c.refreshIrq.busy = c.busy := rfl
@[simp] theorem Ctl.clearFlags_busy (c : Ctl) (d : Word) : (c.clearFlags d).busy = c.busy := rfl
@[simp] theorem Ctl.coreAnswer_busy (c : Ctl) (ok : Bool) (b : Block) : (c.coreAnswer ok b).busy = c.busy := rfl
@[simp] theorem Ctl.markForeign_busy (a : Addr) (c : Ctl) : (c.markForeign a).busy = c.busy := by
  simp [Ctl.busy]

@[simp] theorem Ctl.noteWritten_busy (n : Nat) (c : Ctl) : (c.noteWritten n).busy = c.busy := rfl

@[simp] theorem Ctl.markForeign_running (a : Addr) (c : Ctl) : (c.markForeign a).running = c.running := by
  simp [Ctl.running]

@[simp] theorem Ctl.markForeign_unacquired (a : Addr) (c : Ctl) :
    (c.markForeign a).unacquired = c.unacquired := by
  simp [Ctl.unacquired]

@[simp] theorem Ctl.markForeign_covers (a b : Addr) (c : Ctl) : (c.markForeign a).covers b = c.covers b := by
  simp [Ctl.covers]

@[simp] theorem Ctl.markForeign_hasWritten (a b : Addr) (c : Ctl) :
    (c.markForeign a).hasWritten b = c.hasWritten b := by
  simp [Ctl.hasWritten]

@[simp] theorem State.putByte_contested (s : State) (a b : Addr) (v any : Byte) :
    (s.putByte a v any).contested b = s.contested b := by
  simp [State.contested, State.runningElsewhere, List.flatMap_map]

end Sys2Proof.Machine
end

