-- ==== Sys2Proof/Laws/Ops.lean ====
section
/-! SUPPORT. One lemma per shared operation that says everything it can do: the block reads and writes of the memory
port, the words as bytes, and the register bytes. -/

namespace Sys2Proof.Machine

/-! ### Addresses of a block -/

theorem byteAddr_toNat (base : Addr) (k : Fin 16) :
    (byteAddr base k).toNat = (base.toNat + k.val) % 2 ^ 32 := by
  have hk := k.isLt
  simp only [byteAddr, BitVec.toNat_add, BitVec.toNat_ofNat]
  omega

/-- The sixteen addresses of a block are distinct. -/
theorem byteAddr_injective {base : Addr} {k m : Fin 16} (h : byteAddr base k = byteAddr base m) : k = m := by
  have h' := congrArg BitVec.toNat h
  simp only [byteAddr_toNat] at h'
  have hk := k.isLt
  have hm := m.isLt
  have hb := base.isLt
  apply Fin.ext
  omega

/-- An address is one of a block's sixteen exactly when it lies in the 16 bytes from its start. -/
theorem blockCovers_iff {base a : Addr} : blockCovers base a ↔ (a - base).toNat < 16 := by
  have hb := base.isLt
  have ha := a.isLt
  constructor
  · rintro ⟨k, rfl⟩
    have hk := k.isLt
    rw [BitVec.toNat_sub, byteAddr_toNat]
    omega
  · intro h
    refine ⟨⟨(a - base).toNat, h⟩, ?_⟩
    have hs := BitVec.toNat_sub a base
    apply BitVec.eq_of_toNat_eq
    rw [byteAddr_toNat]
    simp only
    omega

theorem mem_blockPositions (k : Fin 16) : k ∈ blockPositions := by
  revert k
  decide

/-! ### One byte of memory -/

theorem State.putByte_byteAt {s : State} {a b : Addr} {v any : Byte} (hm : s.mem.wf = true) :
    (s.putByte a v any).byteAt b = if a = b then (if s.contested a then any else v) else s.byteAt b := by
  simp only [State.byteAt, State.putByte_mem, memGet_memPut hm]
  by_cases h : a = b
  · simp [h]
  · have : a.toNat ≠ b.toNat := fun h' => h (BitVec.eq_of_toNat_eq h')
    simp [h, this]

theorem State.putByte_wf {s : State} {a : Addr} {v any : Byte} (hm : s.mem.wf = true) :
    (s.putByte a v any).mem.wf = true :=
  memPut_wf hm a.isLt

/-! ### Block reads -/

/-- What an accepted byte read of the controller returns (R46, R55). -/
def State.portByte (s : State) (a : Addr) (any : Byte) : Byte :=
  if s.contested a then any else s.byteAt a

theorem State.readBytes_eq (s : State) (base : Addr) (any : Block) (ks : List (Fin 16)) :
    s.readBytes base any ks =
      if ∀ k ∈ ks, s.memOk (byteAddr base k) .read = true then
        some (ks.map fun k => s.portByte (byteAddr base k) (any.get k))
      else none := by
  induction ks with
  | nil => simp [State.readBytes]
  | cons k ks ih =>
    simp only [State.readBytes, State.readByte, ih]
    by_cases hk : s.memOk (byteAddr base k) .read = true
    · by_cases hks : ∀ m ∈ ks, s.memOk (byteAddr base m) .read = true
      · simp [hk, State.portByte, if_pos hks]
      · have : ¬ ∀ m ∈ k :: ks, s.memOk (byteAddr base m) .read = true := fun h =>
          hks fun m hm => h m (List.mem_cons_of_mem _ hm)
        simp only [hk, if_true, if_neg hks, if_neg this]
    · have : ¬ ∀ m ∈ k :: ks, s.memOk (byteAddr base m) .read = true := fun h => hk (h k (by simp))
      simp only [if_neg hk, if_neg this]

theorem blockOfList_positions (f : Fin 16 → Byte) (k : Fin 16) :
    (blockOfList (blockPositions.map f)).get k = f k := by
  have h : ∀ k : Fin 16, blockPositions[k.val]? = some k := by decide
  simp [blockOfList, Vector.get_eq_getElem, List.getElem?_map, h k]

/-- All sixteen reads accepted: each position holds its byte, a racing one any value. -/
theorem State.readBlock_accepted {s : State} {base : Addr} {any : Block}
    (h : ∀ k, s.memOk (byteAddr base k) .read = true) :
    ∃ b, s.readBlock base any = some b ∧ ∀ k, b.get k = s.portByte (byteAddr base k) (any.get k) := by
  refine ⟨blockOfList (blockPositions.map fun k => s.portByte (byteAddr base k) (any.get k)), ?_, fun k => ?_⟩
  · rw [State.readBlock, State.readBytes_eq, if_pos fun k _ => h k]
  · rw [blockOfList_positions]

/-- One read refused: the block read fails. -/
theorem State.readBlock_refused {s : State} {base : Addr} {any : Block}
    (h : ∃ k, s.memOk (byteAddr base k) .read = false) : s.readBlock base any = none := by
  obtain ⟨k, hk⟩ := h
  have : ¬ ∀ m ∈ blockPositions, s.memOk (byteAddr base m) .read = true := fun h =>
    by simpa [hk] using h k (mem_blockPositions k)
  rw [State.readBlock, State.readBytes_eq, if_neg this]

/-! ### Block writes -/

/-- What a block write never changes: everything but memory and the other instances' note of racing writes. -/
theorem State.writeBytes_frame (s : State) (base : Addr) (blk any : Block) (ks : List (Fin 16)) :
    (s.writeBytes base blk any ks).1.ctl = s.ctl ∧
    (s.writeBytes base blk any ks).1.deny = s.deny ∧
    (s.writeBytes base blk any ks).1.memResp = s.memResp ∧
    (s.writeBytes base blk any ks).1.inbox = s.inbox := by
  induction ks generalizing s with
  | nil => exact ⟨rfl, rfl, rfl, rfl⟩
  | cons k ks ih =>
    unfold State.writeBytes
    split
    · exact ih _
    · exact ⟨rfl, rfl, rfl, rfl⟩

/-- A block write changes no byte's standing: the bytes that race for the writing instance are the same after it. -/
theorem State.writeBytes_contested (s : State) (base : Addr) (blk any : Block) (ks : List (Fin 16)) (a : Addr) :
    (s.writeBytes base blk any ks).1.contested a = s.contested a := by
  induction ks generalizing s with
  | nil => rfl
  | cons k ks ih =>
    unfold State.writeBytes
    split
    · rw [ih, State.putByte_contested]
    · rfl

/-- What a property kept by a foreign mark keeps through a block write. -/
theorem State.writeBytes_others (P : Ctl → Ctl → Prop) (hrefl : ∀ c, P c c)
    (hmark : ∀ a c d, P c d → P c (d.markForeign a)) (s : State) (base : Addr) (blk any : Block)
    (ks : List (Fin 16)) :
    List.Forall₂ P s.others (s.writeBytes base blk any ks).1.others := by
  suffices ∀ t : State, List.Forall₂ P s.others t.others →
      List.Forall₂ P s.others (t.writeBytes base blk any ks).1.others by
    refine this s ?_
    exact List.forall₂_same.mpr fun c _ => hrefl c
  induction ks with
  | nil => exact fun t h => h
  | cons k ks ih =>
    intro t h
    unfold State.writeBytes
    split
    · refine ih _ ?_
      rw [State.putByte_others, List.forall₂_map_right_iff]
      exact h.imp fun c d hcd => hmark _ c d hcd
    · exact h

theorem State.writeBytes_wf {s : State} (base : Addr) (blk any : Block) (ks : List (Fin 16))
    (hm : s.mem.wf = true) : (s.writeBytes base blk any ks).1.mem.wf = true := by
  induction ks generalizing s with
  | nil => exact hm
  | cons k ks ih =>
    unfold State.writeBytes
    split
    · exact ih (State.putByte_wf hm)
    · exact hm

/-- A block write changes no byte outside the listed positions. -/
theorem State.writeBytes_outside {s : State} {base : Addr} {blk any : Block} {ks : List (Fin 16)} {a : Addr}
    (hm : s.mem.wf = true) (ha : ∀ k ∈ ks, a ≠ byteAddr base k) :
    (s.writeBytes base blk any ks).1.byteAt a = s.byteAt a := by
  induction ks generalizing s with
  | nil => rfl
  | cons k ks ih =>
    unfold State.writeBytes
    split
    · rw [ih (State.putByte_wf hm) fun m hmem => ha m (List.mem_cons_of_mem _ hmem),
        State.putByte_byteAt hm, if_neg (Ne.symm (ha k (by simp)))]
    · rfl

/-- What an accepted byte write of the controller leaves in memory (R46, R55). -/
def State.storedByte (s : State) (a : Addr) (v any : Byte) : Byte :=
  if s.contested a then any else v

/-- Accepted writes at distinct positions: each leaves its byte, and the flag is set. -/
theorem State.writeBytes_accepted {s : State} {base : Addr} {blk any : Block} {ks : List (Fin 16)}
    (hm : s.mem.wf = true) (hnd : ks.Nodup) (hok : ∀ k ∈ ks, s.memOk (byteAddr base k) .write = true) :
    (s.writeBytes base blk any ks).2 = true ∧
    ∀ k ∈ ks, (s.writeBytes base blk any ks).1.byteAt (byteAddr base k) =
      s.storedByte (byteAddr base k) (blk.get k) (any.get k) := by
  induction ks generalizing s with
  | nil => simp [State.writeBytes]
  | cons k ks ih =>
    obtain ⟨hk, hnd⟩ := List.nodup_cons.mp hnd
    have hput := ih (s := s.putByte (byteAddr base k) (blk.get k) (any.get k)) (State.putByte_wf hm) hnd
      fun m hmem => by simpa using hok m (List.mem_cons_of_mem _ hmem)
    unfold State.writeBytes
    rw [if_pos (hok k (by simp))]
    refine ⟨hput.1, fun m hmem => ?_⟩
    rcases List.mem_cons.mp hmem with rfl | hmem
    · rw [State.writeBytes_outside (State.putByte_wf hm), State.putByte_byteAt hm, if_pos rfl]
      · rfl
      · intro m hmem heq
        exact hk (byteAddr_injective heq ▸ hmem)
    · rw [hput.2 m hmem]
      simp [State.storedByte]

/-- A refused write ends the block write: the positions before it are written, and the flag is clear. -/
theorem State.writeBytes_refused {s : State} {base : Addr} {blk any : Block} {k : Fin 16}
    {before after : List (Fin 16)} (hok : ∀ m ∈ before, s.memOk (byteAddr base m) .write = true)
    (hk : s.memOk (byteAddr base k) .write = false) :
    s.writeBytes base blk any (before ++ k :: after) = ((s.writeBytes base blk any before).1, false) := by
  induction before generalizing s with
  | nil => simp [State.writeBytes, hk]
  | cons m ms ih =>
    have hm := hok m (by simp)
    simp only [List.cons_append, State.writeBytes, hm, if_true]
    exact ih (fun x hx => by simpa using hok x (List.mem_cons_of_mem _ hx)) (by simpa using hk)

/-- The number of writes accepted before position `k` is refused. -/
theorem State.acceptedWrites_refused {s : State} {base : Addr} {k : Fin 16} {before after : List (Fin 16)}
    (hok : ∀ m ∈ before, s.memOk (byteAddr base m) .write = true)
    (hk : s.memOk (byteAddr base k) .write = false) :
    s.acceptedWrites base (before ++ k :: after) = before.length := by
  induction before with
  | nil => simp [State.acceptedWrites, hk]
  | cons m ms ih =>
    have h := ih fun x hx => hok x (List.mem_cons_of_mem _ hx)
    simp only [State.acceptedWrites, List.cons_append, List.takeWhile_cons, hok m (by simp), if_true,
      List.length_cons] at h ⊢
    rw [h]

/-! ### Reset -/

/-- What a reset keeps of the machine outside its own instance: everything but memory and the other instances' note
of racing writes, and those too outside a block write. -/
theorem State.resetStep_frame (s : State) (part : Nat) (any : Block) :
    (s.resetStep part any).ctl = s.ctl.rst ∧
    (s.resetStep part any).deny = s.deny ∧
    (s.resetStep part any).memResp = s.memResp ∧
    (s.resetStep part any).inbox = s.inbox := by
  unfold State.resetStep State.abandonWrite
  split
  · obtain ⟨hc, hr⟩ := s.writeBytes_frame s.ctl.outputAddr s.ctl.outBlk any (blockPositions.take part)
    exact ⟨by rw [State.mapCtl_ctl, hc], hr⟩
  · exact ⟨rfl, rfl, rfl, rfl⟩

/-- A reset outside a block write changes its own instance alone. -/
theorem State.resetStep_outside {s : State} (part : Nat) (any : Block)
    (h : ¬(s.ctl.seq = .processing ∧ s.ctl.ph = .write)) : s.resetStep part any = s.mapCtl Ctl.rst := by
  rw [State.resetStep, State.abandonWrite, if_neg h]

theorem State.resetStep_wf {s : State} (part : Nat) (any : Block) (hm : s.mem.wf = true) :
    (s.resetStep part any).mem.wf = true := by
  unfold State.resetStep State.abandonWrite
  split
  · exact State.writeBytes_wf _ _ _ _ hm
  · exact hm

/-- What a property kept by a foreign mark keeps through a reset of the selected instance. -/
theorem State.resetStep_others (P : Ctl → Ctl → Prop) (hrefl : ∀ c, P c c)
    (hmark : ∀ a c d, P c d → P c (d.markForeign a)) (s : State) (part : Nat) (any : Block) :
    List.Forall₂ P s.others (s.resetStep part any).others := by
  unfold State.resetStep State.abandonWrite
  split
  · exact s.writeBytes_others P hrefl hmark _ _ _ _
  · exact List.forall₂_same.mpr fun c _ => hrefl c

/-! ### Bytes of registers -/

@[simp] theorem registerBytes_length (regs : Vector Word 8) : (registerBytes regs).length = 32 := by
  simp only [registerBytes, List.length_ofFn]

theorem registerBytes_getElem? (regs : Vector Word 8) (j : Fin 32) :
    (registerBytes regs)[j.val]? = some (registerByte regs j) := by
  rw [registerBytes, List.getElem?_eq_getElem (by simp only [List.length_ofFn]; exact j.isLt), List.getElem_ofFn]

/-- The number of key bytes that reach the core: `KEY_LEN`, and no more than there are. -/
theorem Ctl.keyBytes_length (c : Ctl) : c.keyBytes.length = min c.keyLen.toNat 32 := by
  simp [Ctl.keyBytes]

/-- The request that carries a key of at most 32 bytes hands over that key, whatever the free bytes are. -/
theorem requestKey_keyData {key : List Byte} (h : key.length ≤ 32) (tail : Vector Byte 31) :
    requestKey ⟨BitVec.ofNat 6 key.length, keyData key⟩ tail = key := by
  have hlen : (BitVec.ofNat 6 key.length).toNat = key.length := by
    simp only [BitVec.toNat_ofNat]
    omega
  rw [requestKey, hlen, List.take_append_of_le_length (by simpa using h)]
  apply List.ext_getElem
  · simp [h]
  · intro i h1 h2
    simp [keyData, h2]

/-! ### Numbers as byte lists -/

/-- Unpacking as many bytes as were packed gives them back. -/
theorem unpackBytes_packBytes (bs : List Byte) : unpackBytes bs.length (packBytes bs) = bs := by
  induction bs with
  | nil => rfl
  | cons b bs ih =>
    have hb : b.toNat < 256 := b.isLt
    have h : (b.toNat + 256 * packBytes bs) / 256 = packBytes bs := by omega
    simp only [packBytes, List.length_cons, unpackBytes, h, ih]
    congr 1
    apply BitVec.eq_of_toNat_eq
    simp only [BitVec.toNat_ofNat]
    omega

/-- Dropping the lowest `k` bytes of a number is a shift by `8k`. -/
theorem packBytes_shift (bs : List Byte) (k : Nat) : packBytes bs >>> (8 * k) = packBytes (bs.drop k) := by
  induction bs generalizing k with
  | nil => simp [packBytes]
  | cons b bs ih =>
    cases k with
    | zero => simp
    | succ k =>
      have hb : b.toNat < 256 := b.isLt
      have h8 : packBytes (b :: bs) >>> 8 = packBytes bs := by
        simp only [packBytes, Nat.shiftRight_eq_div_pow]
        omega
      rw [show 8 * (k + 1) = 8 + 8 * k by omega, Nat.shiftRight_add, h8, ih, List.drop_succ_cons]

end Sys2Proof.Machine
end

