-- ==== Sys2Proof/Laws/Sequencer.lean ====
section
/-! SUPPORT. What one controller step can do, said once: the registers and latches it leaves, the rest of the machine,
and memory.  A statement about every controller step follows by cases on `Ctl.Moves`. -/

namespace Sys2Proof.Machine

/-- The registers and latches a controller step can leave, before the interrupt line is recomputed: one constructor for
each row of the table of R88 and for each way that row can go, and `stay` where no step is enabled. -/
inductive Ctl.Moves (c : Ctl) : Ctl → Prop
  | stay (h : c.enabled = false ∨ phaseLegal c.seq c.ph = false) : Ctl.Moves c c
  | validate (hq : c.seq = .validating) (hp : c.ph = .none) : Ctl.Moves c c.validate
  | issueOpen (hq : c.seq = .setup) (hp : c.ph = .openReq) : Ctl.Moves c c.issueOpen
  | takeOpen (r : CoreResp) (hq : c.seq = .setup) (hp : c.ph = .openWait) (hr : c.coreResp = some r) :
      Ctl.Moves c (c.takeOpen r)
  | issueSetKey (hq : c.seq = .setup) (hp : c.ph = .key) : Ctl.Moves c c.issueSetKey
  | takeSetKey (r : CoreResp) (hq : c.seq = .setup) (hp : c.ph = .keyWait) (hr : c.coreResp = some r) :
      Ctl.Moves c (c.takeSetKey r)
  | fetch (b : Block) (hq : c.seq = .processing) (hp : c.ph = .fetch) :
      Ctl.Moves c { c with inBlk := b, ph := .cipher }
  | refused (written : Nat) (hq : c.seq = .processing) (hp : c.ph = .fetch ∨ c.ph = .write) :
      Ctl.Moves c ((c.fail .memoryAccessFailure).noteWritten written)
  | issueCipher (hq : c.seq = .processing) (hp : c.ph = .cipher) : Ctl.Moves c c.issueCipher
  | takeCipher (r : CoreResp) (hq : c.seq = .processing) (hp : c.ph = .cipherWait) (hr : c.coreResp = some r) :
      Ctl.Moves c (c.takeCipher r)
  | finishBlock (hq : c.seq = .processing) (hp : c.ph = .write) : Ctl.Moves c c.finishBlock
  | issueClose (hq : c.seq = .closing) (hp : c.ph = .close) : Ctl.Moves c c.issueClose
  | takeClose (r : CoreResp) (hq : c.seq = .closing) (hp : c.ph = .closeWait) (hr : c.coreResp = some r) :
      Ctl.Moves c (c.takeClose r)

/-- The write step: the registers it leaves. -/
theorem State.writeOut_ctl (s : State) (any : Block) :
    (s.writeOut any).ctl = s.ctl.finishBlock ∨
      (s.writeOut any).ctl = (s.ctl.fail .memoryAccessFailure).noteWritten
        (s.acceptedWrites s.ctl.outputAddr blockPositions) := by
  have hf := (s.writeBytes_frame s.ctl.outputAddr s.ctl.outBlk any blockPositions).1
  unfold State.writeOut State.writeBlock
  split
  · rename_i t h
    rw [h] at hf
    right
    rw [State.mapCtl_ctl, hf]
  · rename_i t h
    rw [h] at hf
    left
    rw [State.mapCtl_ctl, hf]

/-- Everything a controller step can do to its own registers and latches. -/
theorem State.controllerStep_moves (s : State) (any : Block) :
    ∃ d, s.ctl.Moves d ∧ (s.controllerStep any).ctl = d.refreshIrq := by
  suffices ∃ d, s.ctl.Moves d ∧ (s.sequence any).ctl = d by
    obtain ⟨d, hd, he⟩ := this
    exact ⟨d, hd, by rw [State.controllerStep, State.mapCtl_ctl, he]⟩
  refine ⟨_, ?_, rfl⟩
  have wait : ∀ f : CoreResp → Ctl → Ctl, s.ctl.ph.waiting = true →
      (∀ r, s.ctl.coreResp = some r → s.ctl.Moves (f r s.ctl)) → s.ctl.Moves (s.onResponse f).ctl := by
    intro f hw h
    unfold State.onResponse
    split
    · rename_i hn
      exact .stay (.inl (by simp [Ctl.enabled, hw, hn]))
    · rename_i r hr
      exact h r hr
  cases hq : s.ctl.seq
  case idle => simp only [State.sequence, hq]; exact .stay (.inl (by simp [Ctl.enabled, Ctl.busy, hq, SeqState.busy]))
  case completed =>
    simp only [State.sequence, hq]; exact .stay (.inl (by simp [Ctl.enabled, Ctl.busy, hq, SeqState.busy]))
  case failed =>
    simp only [State.sequence, hq]; exact .stay (.inl (by simp [Ctl.enabled, Ctl.busy, hq, SeqState.busy]))
  case validating =>
    simp only [State.sequence, hq]
    split
    · exact .validate hq ‹_›
    · exact .stay (.inr (by simpa [hq, phaseLegal] using ‹_›))
  case setup =>
    cases hp : s.ctl.ph <;> simp only [State.sequence, hq, hp]
    case openReq => exact .issueOpen hq hp
    case openWait => exact wait _ (by rw [hp]; rfl) fun r hr => .takeOpen r hq hp hr
    case key => exact .issueSetKey hq hp
    case keyWait => exact wait _ (by rw [hp]; rfl) fun r hr => .takeSetKey r hq hp hr
    all_goals exact .stay (.inr (by rw [hq, hp]; rfl))
  case processing =>
    cases hp : s.ctl.ph <;> simp only [State.sequence, hq, hp]
    case fetch =>
      unfold State.fetch
      split
      · simpa using Ctl.Moves.refused (c := s.ctl) 0 hq (.inl hp)
      · exact .fetch _ hq hp
    case cipher => exact .issueCipher hq hp
    case cipherWait => exact wait _ (by rw [hp]; rfl) fun r hr => .takeCipher r hq hp hr
    case write =>
      rcases s.writeOut_ctl any with h | h <;> rw [h]
      · exact .finishBlock hq hp
      · exact .refused _ hq (.inr hp)
    all_goals exact .stay (.inr (by rw [hq, hp]; rfl))
  case closing =>
    cases hp : s.ctl.ph <;> simp only [State.sequence, hq, hp]
    case close => exact .issueClose hq hp
    case closeWait => exact wait _ (by rw [hp]; rfl) fun r hr => .takeClose r hq hp hr
    all_goals exact .stay (.inr (by rw [hq, hp]; rfl))

/-- Whether a controller step is the write of an output block. -/
def Ctl.writesBlock (c : Ctl) : Prop :=
  c.seq = .processing ∧ c.ph = .write

/-- What a controller step leaves outside the registers of its own instance: only the write step touches memory and the
other instances, and as the block write does. -/
def State.RestKept (any : Block) (s t : State) : Prop :=
  t.deny = s.deny ∧ t.memResp = s.memResp ∧ t.inbox = s.inbox ∧
  (t.mem = s.mem ∧ t.others = s.others ∨
    s.ctl.writesBlock ∧
    t.mem = (s.writeBlock s.ctl.outputAddr s.ctl.outBlk any).1.mem ∧
    t.others = (s.writeBlock s.ctl.outputAddr s.ctl.outBlk any).1.others)

theorem State.RestKept.mapCtl (any : Block) (s : State) (f : Ctl → Ctl) : State.RestKept any s (s.mapCtl f) :=
  ⟨rfl, rfl, rfl, .inl ⟨rfl, rfl⟩⟩

theorem State.RestKept.refl (any : Block) (s : State) : State.RestKept any s s :=
  ⟨rfl, rfl, rfl, .inl ⟨rfl, rfl⟩⟩

theorem State.RestKept.response (any : Block) (s : State) (f : CoreResp → Ctl → Ctl) :
    State.RestKept any s (s.onResponse f) := by
  unfold State.onResponse
  split
  · exact .refl any s
  · exact .mapCtl any s _

/-- Everything a controller step can do outside its own registers and latches. -/
theorem State.controllerStep_rest (s : State) (any : Block) : State.RestKept any s (s.controllerStep any) := by
  suffices State.RestKept any s (s.sequence any) from this
  cases hq : s.ctl.seq <;> simp only [State.sequence, hq]
  case validating => split <;> [exact .mapCtl any s _; exact .refl any s]
  case setup =>
    cases hp : s.ctl.ph <;> simp only
    case openReq => exact .mapCtl any s _
    case openWait => exact .response any s _
    case key => exact .mapCtl any s _
    case keyWait => exact .response any s _
    all_goals exact .refl any s
  case processing =>
    cases hp : s.ctl.ph <;> simp only
    case fetch =>
      unfold State.fetch
      split <;> exact .mapCtl any s _
    case cipher => exact .mapCtl any s _
    case cipherWait => exact .response any s _
    case write =>
      have hf := (s.writeBytes_frame s.ctl.outputAddr s.ctl.outBlk any blockPositions).2
      unfold State.writeOut State.RestKept
      split
      all_goals
        rename_i t h
        unfold State.writeBlock at h ⊢
        rw [h] at hf ⊢
        exact ⟨hf.1, hf.2.1, hf.2.2, .inr ⟨⟨hq, hp⟩, rfl, rfl⟩⟩
    all_goals exact .refl any s
  case closing =>
    cases hp : s.ctl.ph <;> simp only
    case close => exact .mapCtl any s _
    case closeWait => exact .response any s _
    all_goals exact .refl any s
  all_goals exact .refl any s

/-- No controller step changes the note of the writes and transforms that race with its own (R55, R159). -/
theorem Ctl.Moves.rivalry {c d : Ctl} (h : c.Moves d) :
    d.race.foreign = c.race.foreign ∧ d.race.rivals = c.race.rivals := by
  have finish : c.finishBlock.race = (c.noteWritten 16).race := by
    unfold Ctl.finishBlock
    dsimp only
    split <;> rfl
  cases h
  case validate => unfold Ctl.validate; (repeat' split) <;> simp
  case takeOpen r _ _ _ => unfold Ctl.takeOpen; split <;> simp
  case takeSetKey r _ _ _ => unfold Ctl.takeSetKey; (repeat' split) <;> simp
  case refused => simp [Ctl.noteWritten]
  case takeCipher r _ _ _ => unfold Ctl.takeCipher; split <;> simp
  case finishBlock => rw [finish]; exact ⟨rfl, rfl⟩
  case takeClose r _ _ _ => unfold Ctl.takeClose; dsimp only; split <;> simp
  all_goals exact ⟨rfl, rfl⟩

/-- No controller step changes which bytes race for its instance. -/
theorem State.controllerStep_contested (s : State) (any : Block) (a : Addr) :
    (s.controllerStep any).contested a = s.contested a := by
  obtain ⟨d, hd, he⟩ := s.controllerStep_moves any
  have hr := hd.rivalry
  have hf : (s.controllerStep any).ctl.race.foreign = s.ctl.race.foreign := by rw [he]; exact hr.1
  have hv : (s.controllerStep any).ctl.race.rivals = s.ctl.race.rivals := by rw [he]; exact hr.2
  rcases (s.controllerStep_rest any).2.2.2 with ⟨-, ho⟩ | ⟨-, -, ho⟩
  · rw [State.contested, State.runningElsewhere, hf, hv, ho]; rfl
  · have hw := s.writeBytes_contested s.ctl.outputAddr s.ctl.outBlk any blockPositions a
    rw [State.contested, State.runningElsewhere, (s.writeBytes_frame _ _ _ _).1] at hw
    rw [State.contested, State.runningElsewhere, hf, hv, ho]
    exact hw

/-- No controller step changes what the platform accepts (R46). -/
theorem State.controllerStep_memOk (s : State) (any : Block) (a : Addr) (kind : AccessKind) :
    (s.controllerStep any).memOk a kind = s.memOk a kind := by
  rw [State.memOk, State.memOk, (s.controllerStep_rest any).1]

end Sys2Proof.Machine
end

