-- ==== Sys2Proof/Laws/Access.lean ====
section
/-! SUPPORT. What a host access and a core answer can do, said once, and the steps of the machine event by event. -/

namespace Sys2Proof.Machine

/-- Whether an operation is taken from the host port; the others are taken from the core port (R62). -/
def onHostPort : Instr → Bool
  | .coreOpen _ => false
  | .coreSetKey _ => false
  | .coreEnc _ => false
  | .coreDec _ => false
  | .coreClose => false
  | _ => true

/-- The registers a configuration write that is not ignored can leave, before the port's answer (R123, R130 to R140). -/
inductive Ctl.Configures (c : Ctl) : Ctl → Prop
  | control (ie dir : Bool) : Ctl.Configures c { c with ie := ie, dir := dir }
  | start (ie dir : Bool) (rivals : List BufferWindow) :
      Ctl.Configures c (Ctl.acceptStart rivals { c with ie := ie, dir := dir })
  | length (d : Word) : Ctl.Configures c { c with length := d }
  | src (d : Word) : Ctl.Configures c { c with srcAddr := d }
  | dst (d : Word) : Ctl.Configures c { c with dstAddr := d }
  | keyLen (d : Word) : Ctl.Configures c { c with keyLen := d }
  | key (k : Vector Word 8) : Ctl.Configures c { c with key := k }
  | iv (v : Vector Word 8) : Ctl.Configures c { c with iv := v }

/-- The registers a host operation can leave.  `write` says whether the operation is a write. -/
inductive Ctl.Served (c : Ctl) : Bool → Ctl → Prop
  | read (r : HostResponse) : Ctl.Served c false (c.answer r)
  | acquire (r : HostResponse) : Ctl.Served c false (c.acquire.answer r)
  | dropped : Ctl.Served c true (c.answer .ack)
  | flags (d : Word) : Ctl.Served c true ((c.clearFlags d).answer .ack)
  | ignored (hb : c.busy = true) : Ctl.Served c true (Ctl.answer .ack { c with wbusy := true })
  | configured {d : Ctl} (hb : c.busy = false) (h : c.Configures d) : Ctl.Served c true (d.answer .ack)

/-- Whether an operation of the host port is a write: bit `W` of its access word (R63). -/
def isWrite : Instr → Bool
  | .wrCtrl _ | .wrStatus _ | .wrErrcode _ | .wrBlkcnt _ | .wrLength _ | .wrSrc _ | .wrDst _ | .wrKeylen _
  | .wrKey _ _ | .wrIv _ _ | .wrRsvd _ _ => true
  | _ => false

theorem Ctl.configWrite_served {c : Ctl} {f : Ctl → Ctl} (h : c.Configures (f c)) :
    c.Served true ((c.configWrite f).answer .ack) := by
  unfold Ctl.configWrite
  split
  · exact .ignored ‹_›
  · exact .configured (Bool.not_eq_true _ ▸ ‹_›) h

/-- Everything a host operation can do. -/
theorem exec_host (i : Instr) (s : State) (hi : onHostPort i = true) :
    ∃ d, s.ctl.Served (isWrite i) d ∧ exec i s = .next (s.mapCtl fun _ => d) := by
  cases i
  case rdStatus => exact ⟨_, .acquire _, rfl⟩
  case wrStatus d => exact ⟨_, .flags d, rfl⟩
  case wrCtrl d =>
    refine ⟨_, Ctl.configWrite_served ?_, rfl⟩
    unfold Ctl.writeCtrl
    split
    · exact .start _ _ _
    · exact .control _ _
  case wrLength d => exact ⟨_, Ctl.configWrite_served (.length d), rfl⟩
  case wrSrc d => exact ⟨_, Ctl.configWrite_served (.src d), rfl⟩
  case wrDst d => exact ⟨_, Ctl.configWrite_served (.dst d), rfl⟩
  case wrKeylen d => exact ⟨_, Ctl.configWrite_served (.keyLen d), rfl⟩
  case wrKey n d => exact ⟨_, Ctl.configWrite_served (.key _), rfl⟩
  case wrIv n d => exact ⟨_, Ctl.configWrite_served (.iv _), rfl⟩
  case wrErrcode d => exact ⟨_, .dropped, rfl⟩
  case wrBlkcnt d => exact ⟨_, .dropped, rfl⟩
  case wrRsvd r d => exact ⟨_, .dropped, rfl⟩
  case coreOpen | coreSetKey | coreEnc | coreDec | coreClose => cases hi
  all_goals exact ⟨_, .read _, rfl⟩

/-- The host port's decoder gives operations of the host port, and a write exactly when `W` is 1 (R63, R64). -/
theorem decodeHost_port {w : HostWord} {i : Instr} (h : decodeHost w = .ok i) :
    onHostPort i = true ∧ isWrite i = w.access.getLsbD 7 := by
  obtain ⟨r, hr, hi⟩ : ∃ r, hostRows.find? (fun r => r.covers w.access) = some r ∧
      r.build (accessIndex w.access) w.data = i := by
    unfold decodeHost at h
    split at h
    · exact ⟨_, ‹_›, by simpa using h⟩
    · cases h
  have hmem := List.mem_of_find?_eq_some hr
  have hcov := List.find?_some hr
  have bit : ∀ a m p : BitVec 8, m.getLsbD 7 = true → (a &&& m == p) = true → a.getLsbD 7 = p.getLsbD 7 := by
    intro a m p hm h
    rw [← eq_of_beq h, BitVec.getLsbD_and, hm, Bool.and_true]
  subst hi
  simp only [hostRows, controlRows, indexedRows, List.cons_append, List.nil_append, List.mem_cons,
    List.not_mem_nil, or_false] at hmem
  rcases hmem with rfl | rfl | rfl | rfl | rfl | rfl | rfl | rfl | rfl | rfl | rfl | rfl | rfl | rfl | rfl | rfl |
    rfl | rfl | rfl | rfl | rfl | rfl <;>
  exact ⟨rfl, (bit _ _ _ (by rfl) hcov).symm⟩

/-- Everything an access to the selected instance's registers can do: one of the port's operations, or a slave
error. -/
theorem registerAccess_next (acc : HostAccess) (s : State) :
    ∃ d, (s.ctl.Served acc.write d ∨ d = s.ctl.answer .slaveError) ∧
      registerAccess acc s = .next (s.mapCtl fun _ => d) := by
  simp only [registerAccess]
  split
  · exact ⟨_, .inr rfl, rfl⟩
  · split
    · rename_i i hi
      have hp := decodeHost_port hi
      have hw : (hostWordOf acc.write (s.ctl.offsetOf acc.addr) acc.data).access.getLsbD 7 = acc.write := by
        simp only [hostWordOf, accessWord, BitVec.getLsbD_append]
        cases acc.write <;> rfl
      obtain ⟨d, hd, he⟩ := exec_host i s hp.1
      rw [hp.2, hw] at hd
      exact ⟨d, .inl hd, he⟩
    · exact ⟨_, .inr rfl, rfl⟩

/-! ### Which instance a step is taken by (R159) -/

theorem State.select_some {s : State} {k : Nat} {c : Ctl} (h : s.others[k]? = some c) :
    s.select k = { s with ctl := c, others := s.others.set k s.ctl } := by
  simp [State.select, h]

theorem State.select_none {s : State} {k : Nat} (h : s.others[k]? = none) : s.select k = s := by
  simp [State.select, h]

/-- A change of the `k`-th other instance, made while it is selected. -/
theorem State.select_mapCtl_select {s : State} {k : Nat} {c d : Ctl} (h : s.others[k]? = some c) :
    (((s.select k).mapCtl fun _ => d).select k) = { s with others := s.others.set k d } := by
  have hk : k < s.others.length := (List.getElem?_eq_some_iff.mp h).1
  rw [State.select_some h, State.select_some (c := s.ctl)]
  · simp [State.mapCtl]
  · simp [State.mapCtl, hk]

/-- Everything a host register access can do: the addressed instance alone takes it, the selected one or the `k`-th
other, and it takes one of the port's operations or answers a slave error. -/
theorem hostStep_next (acc : HostAccess) (s : State) :
    (s.instanceAt acc.addr = none ∧ ∃ d, (s.ctl.Served acc.write d ∨ d = s.ctl.answer .slaveError) ∧
      hostStep acc s = .next (s.mapCtl fun _ => d)) ∨
    ∃ k c d, s.instanceAt acc.addr = some k ∧ s.others[k]? = some c ∧
      (c.Served acc.write d ∨ d = c.answer .slaveError) ∧
      hostStep acc s = .next { s with others := s.others.set k d } := by
  unfold hostStep
  split
  · rename_i hn
    exact .inl ⟨hn, registerAccess_next acc s⟩
  · rename_i k hk
    have hlt : k < s.others.length := by
      unfold State.instanceAt at hk
      split at hk
      · cases hk
      · exact (List.findIdx?_eq_some_iff_getElem.mp hk).1
    have hc : s.others[k]? = some s.others[k] := List.getElem?_eq_getElem hlt
    obtain ⟨d, hd, he⟩ := registerAccess_next acc (s.select k)
    rw [State.select_some hc] at hd
    refine .inr ⟨k, _, d, hk, hc, hd, ?_⟩
    rw [State.atInstance, he]
    exact congrArg _ (State.select_mapCtl_select hc)

/-- Everything a core answer can do: its variant and key may change, and an answer goes into the slot. -/
theorem exec_core (i : Instr) (s : State) (hi : onHostPort i = false) :
    ∃ cv ck ok data, exec i s =
      .next (s.mapCtl fun c => ({ c with cv := cv, ck := ck }.coreAnswer ok data).refreshIrq) := by
  cases i
  case coreOpen v => exact ⟨_, s.ctl.ck, _, _, rfl⟩
  case coreSetKey key => exact ⟨s.ctl.cv, _, _, _, rfl⟩
  case coreEnc b => exact ⟨s.ctl.cv, s.ctl.ck, _, _, rfl⟩
  case coreDec b => exact ⟨s.ctl.cv, s.ctl.ck, _, _, rfl⟩
  case coreClose => exact ⟨none, none, _, _, rfl⟩
  all_goals cases hi

/-- The core port's decoder gives operations of the core port (R66). -/
theorem decodeCore_port {q : CoreWord} {i : Instr} (h : decodeCore q = .ok i) : onHostPort i = false := by
  unfold decodeCore at h
  split at h
  · split at h
    · cases h; rfl
    · cases h
  · cases h; rfl
  · cases h; rfl
  · cases h; rfl
  · cases h; rfl
  · cases h

/-- Everything the core's step can do where it answers a next state: nothing, or the pending request's operation. -/
theorem coreStep_next {draw : CoreDraw} {s t : State} (h : coreStep draw s = .next t) :
    t = s ∨ ∃ q i, s.ctl.coreReq = some q ∧ s.ctl.corePending = true ∧ s.ctl.coreResp = none ∧
      decodeCore q = .ok i ∧ exec i (s.mapCtl fun c => { c with draw := draw }) = .next t := by
  unfold coreStep at h
  split at h
  · left
    cases h
    rfl
  · rename_i he
    simp only [Ctl.coreEnabled, Bool.not_eq_true', Bool.not_eq_false, Bool.and_eq_true,
      Option.isNone_iff_eq_none] at he
    split at h
    · left
      cases h
      rfl
    · split at h
      · exact .inr ⟨_, _, ‹_›, he.1.1, he.2, ‹_›, h⟩
      · cases h

end Sys2Proof.Machine
end

