-- ==== Sys2Proof/Laws/PerInstr.lean ====
section
/-! SUPPORT. Statements made for every operation, one lemma an operation: the port its words travel on (R62). -/

namespace Sys2Proof.Laws.Port

/-- An operation is encoded for the host port exactly when it is one of the 22 rows of R64. -/
def Statement (i : Instr) : Prop :=
  (∃ w, encode i = .host w) ↔ Machine.onHostPort i = true

theorem rdCtrl : Statement .rdCtrl :=
  ⟨fun _ => rfl, fun _ => ⟨_, rfl⟩⟩

theorem wrCtrl (d : Word) : Statement (.wrCtrl d) :=
  ⟨fun _ => rfl, fun _ => ⟨_, rfl⟩⟩

theorem rdStatus : Statement .rdStatus :=
  ⟨fun _ => rfl, fun _ => ⟨_, rfl⟩⟩

theorem wrStatus (d : Word) : Statement (.wrStatus d) :=
  ⟨fun _ => rfl, fun _ => ⟨_, rfl⟩⟩

theorem rdErrcode : Statement .rdErrcode :=
  ⟨fun _ => rfl, fun _ => ⟨_, rfl⟩⟩

theorem wrErrcode (d : Word) : Statement (.wrErrcode d) :=
  ⟨fun _ => rfl, fun _ => ⟨_, rfl⟩⟩

theorem rdBlkcnt : Statement .rdBlkcnt :=
  ⟨fun _ => rfl, fun _ => ⟨_, rfl⟩⟩

theorem wrBlkcnt (d : Word) : Statement (.wrBlkcnt d) :=
  ⟨fun _ => rfl, fun _ => ⟨_, rfl⟩⟩

theorem rdLength : Statement .rdLength :=
  ⟨fun _ => rfl, fun _ => ⟨_, rfl⟩⟩

theorem wrLength (d : Word) : Statement (.wrLength d) :=
  ⟨fun _ => rfl, fun _ => ⟨_, rfl⟩⟩

theorem rdSrc : Statement .rdSrc :=
  ⟨fun _ => rfl, fun _ => ⟨_, rfl⟩⟩

theorem wrSrc (d : Word) : Statement (.wrSrc d) :=
  ⟨fun _ => rfl, fun _ => ⟨_, rfl⟩⟩

theorem rdDst : Statement .rdDst :=
  ⟨fun _ => rfl, fun _ => ⟨_, rfl⟩⟩

theorem wrDst (d : Word) : Statement (.wrDst d) :=
  ⟨fun _ => rfl, fun _ => ⟨_, rfl⟩⟩

theorem rdKeylen : Statement .rdKeylen :=
  ⟨fun _ => rfl, fun _ => ⟨_, rfl⟩⟩

theorem wrKeylen (d : Word) : Statement (.wrKeylen d) :=
  ⟨fun _ => rfl, fun _ => ⟨_, rfl⟩⟩

theorem rdKey (n : Fin 8) : Statement (.rdKey n) :=
  ⟨fun _ => rfl, fun _ => ⟨_, rfl⟩⟩

theorem wrKey (n : Fin 8) (d : Word) : Statement (.wrKey n d) :=
  ⟨fun _ => rfl, fun _ => ⟨_, rfl⟩⟩

theorem rdIv (n : Fin 8) : Statement (.rdIv n) :=
  ⟨fun _ => rfl, fun _ => ⟨_, rfl⟩⟩

theorem wrIv (n : Fin 8) (d : Word) : Statement (.wrIv n d) :=
  ⟨fun _ => rfl, fun _ => ⟨_, rfl⟩⟩

theorem rdRsvd (r : Fin 8) : Statement (.rdRsvd r) :=
  ⟨fun _ => rfl, fun _ => ⟨_, rfl⟩⟩

theorem wrRsvd (r : Fin 8) (d : Word) : Statement (.wrRsvd r d) :=
  ⟨fun _ => rfl, fun _ => ⟨_, rfl⟩⟩

theorem coreOpen (v : Variant) : Statement (.coreOpen v) :=
  ⟨fun ⟨_, h⟩ => Encoded.noConfusion h, fun h => Bool.noConfusion h⟩

theorem coreSetKey (key : KeyFields) : Statement (.coreSetKey key) :=
  ⟨fun ⟨_, h⟩ => Encoded.noConfusion h, fun h => Bool.noConfusion h⟩

theorem coreEnc (b : Block) : Statement (.coreEnc b) :=
  ⟨fun ⟨_, h⟩ => Encoded.noConfusion h, fun h => Bool.noConfusion h⟩

theorem coreDec (b : Block) : Statement (.coreDec b) :=
  ⟨fun ⟨_, h⟩ => Encoded.noConfusion h, fun h => Bool.noConfusion h⟩

theorem coreClose : Statement .coreClose :=
  ⟨fun ⟨_, h⟩ => Encoded.noConfusion h, fun h => Bool.noConfusion h⟩

end Sys2Proof.Laws.Port
end

