-- ==== Sys2Proof/Tests/Slice0.lean ====
section
/-! SUPPORT. The author's tests: well-formedness, one decoded word per operation, single steps with results written out
of the spec's examples and vectors, and for every statement with hypotheses a concrete state that meets them. -/

namespace Sys2Proof.Tests
open Sys2Proof Sys2Proof.Machine

/-! ### Well-formed terms (R5, R65) -/

theorem test_wellFormed_key_lengths :
    (Instr.coreSetKey ⟨16, keyData (List.replicate 16 1)⟩).wellFormed = true ∧
    (Instr.coreSetKey ⟨24, keyData (List.replicate 24 1)⟩).wellFormed = true ∧
    (Instr.coreSetKey ⟨32, keyData (List.replicate 32 1)⟩).wellFormed = true := by decide

/-- The document's own examples of unsupported key lengths, 10, 20 and 33 bytes (V7), and key bytes above `klen`. -/
theorem test_illFormed_keys :
    (Instr.coreSetKey ⟨10, keyData []⟩).wellFormed = false ∧ (Instr.coreSetKey ⟨20, keyData []⟩).wellFormed = false ∧
    (Instr.coreSetKey ⟨33, keyData []⟩).wellFormed = false ∧ (Instr.coreSetKey ⟨0, keyData []⟩).wellFormed = false ∧
    (Instr.coreSetKey ⟨16, keyData (List.replicate 17 1)⟩).wellFormed = false := by decide

/-! ### Words written out from the encodings of R64, and from P1 and V23 -/

theorem test_decode_control :
    decodeTableWord 8 0b00000000 = some .rdCtrl ∧ decodeTableWord 40 0x0000000780 = some (.wrCtrl 0x7) ∧
    decodeTableWord 8 0b00000100 = some .rdStatus ∧ decodeTableWord 40 0x0000000684 = some (.wrStatus 0x6) ∧
    decodeTableWord 8 0b00001000 = some .rdErrcode ∧ decodeTableWord 40 0x0000000588 = some (.wrErrcode 0x5) ∧
    decodeTableWord 8 0b00001100 = some .rdBlkcnt ∧ decodeTableWord 40 0x000000078C = some (.wrBlkcnt 0x7) := by
  decide

theorem test_decode_configuration :
    decodeTableWord 8 0b00010000 = some .rdLength ∧ decodeTableWord 40 0x0000002090 = some (.wrLength 0x20) ∧
    decodeTableWord 8 0b00010100 = some .rdSrc ∧ decodeTableWord 40 0x0000100094 = some (.wrSrc 0x1000) ∧
    decodeTableWord 8 0b00011000 = some .rdDst ∧ decodeTableWord 40 0x0000200098 = some (.wrDst 0x2000) ∧
    decodeTableWord 8 0b00011100 = some .rdKeylen ∧ decodeTableWord 40 0x000000109C = some (.wrKeylen 0x10) := by
  decide

theorem test_decode_indexed :
    decodeTableWord 8 0b00111100 = some (.rdKey 7) ∧ decodeTableWord 40 0x0f0e0d0cAC = some (.wrKey 3 0x0f0e0d0c) ∧
    decodeTableWord 8 0b01000100 = some (.rdIv 1) ∧ decodeTableWord 40 0x17161514D4 = some (.wrIv 5 0x17161514) ∧
    decodeTableWord 8 0b01111100 = some (.rdRsvd 7) ∧ decodeTableWord 40 0x00000001E0 = some (.wrRsvd 0 1) := by
  decide

/-- Access words with `A[1:0] != 00` name no register (R63). -/
theorem test_decode_no_register :
    decodeHost ⟨0x06, 0⟩ = .error .noRegister ∧ decodeHost ⟨0x81, 0⟩ = .error .noRegister ∧
    decodeHost ⟨0xFF, 0⟩ = .error .noRegister := by decide

/-- The requests of V22. -/
theorem test_decode_requests :
    decodeTableWord 267 (0x0000 <<< 256) = some (.coreOpen .v128) ∧
    decodeTableWord 267 (0x0080 <<< 256) = some (.coreOpen .v256) ∧
    decodeTableWord 267 ((0x0110 <<< 256) + 0x0f0e0d0c0b0a09080706050403020100) =
      some (.coreSetKey ⟨16, keyData [0, 1, 2, 3, 4, 5, 6, 7, 8, 9, 10, 11, 12, 13, 14, 15]⟩) ∧
    decodeTableWord 267 (0x0400 <<< 256) = some .coreClose := by decide

theorem test_decode_enc :
    decodeTableWord 267 ((0x0200 <<< 256) + 0x0f0e0d0c0b0a09080706050403020100) =
      some (.coreEnc #v[0, 1, 2, 3, 4, 5, 6, 7, 8, 9, 10, 11, 12, 13, 14, 15]) := by decide

/-- V22: DEC of the block `0a940bb5...c653ea5a`, whose number reads byte-reversed. -/
theorem test_decode_dec :
    decodeTableWord 267 ((0x0300 <<< 256) + 0x5aea53c65894c3f145f06e41b50b940a) =
      some (.coreDec #v[0x0a, 0x94, 0x0b, 0xb5, 0x41, 0x6e, 0xf0, 0x45, 0xf1, 0xc3, 0x94, 0x58, 0xc6, 0x53, 0xea,
        0x5a]) := by decide

/-- V22: the response word `0x1 5aea5365...0b940a`, `ok` then `data`; without bit 128 it is a failure (R68). -/
theorem test_response_number :
    let blk : Block := #v[0x0a, 0x94, 0x0b, 0xb5, 0x41, 0x6e, 0xf0, 0x45, 0xf1, 0xc3, 0x94, 0x58, 0xc6, 0x53, 0xea, 0x5a]
    CoreResp.ofNat 0x15aea53c65894c3f145f06e41b50b940a = ⟨true, blk⟩ ∧
    (CoreResp.mk true blk).toNat = 0x15aea53c65894c3f145f06e41b50b940a ∧
    CoreResp.ofNat 0x05aea53c65894c3f145f06e41b50b940a = ⟨false, blk⟩ := by decide

/-- Reserved requests are rejected by name (R74); a SET_KEY with `klen` 33 is none of them. -/
theorem test_decode_reserved_requests :
    decodeCore (CoreWord.ofNat (0x0500 <<< 256)) = .error .reservedOp ∧
    decodeCore (CoreWord.ofNat (0x00C0 <<< 256)) = .error .reservedVariant ∧
    decodeCore (CoreWord.ofNat (0x0121 <<< 256)) = .ok (.coreSetKey ⟨33, keyData []⟩) := by decide

theorem test_encode_request_number :
    (encode (.coreSetKey ⟨16, keyData [0, 1, 2, 3, 4, 5, 6, 7, 8, 9, 10, 11, 12, 13, 14, 15]⟩)).toNat =
      (0x0110 <<< 256) + 0x0f0e0d0c0b0a09080706050403020100 ∧
    (encode (.coreOpen .v192)).toNat = 0x0040 <<< 256 ∧
    (encode (.wrIv 7 0x1f1e1d1c)).toNat = 0x1f1e1d1cDC := by decide

/-! ### The datapath (V11, V16 to V19: no AES is needed) -/

/-- The block of ascending bytes from `a`. -/
def ascending (a : Byte) : Block :=
  Vector.ofFn fun k => a + BitVec.ofNat 8 k.val

/-- The block of sixteen bytes `a`. -/
def same (a : Byte) : Block :=
  Vector.replicate 16 a

theorem test_xor_vectors :
    xor16 (ascending 0x20) (ascending 0xa0) = same 0x80 ∧ xor16 (same 0x80) (ascending 0x50) = ascending 0xd0 ∧
    xor16 (same 0xff) (same 0xff) = same 0 := by decide

/-- V16: the identity oracle, encryption. -/
theorem test_encrypt_identity :
    igeEnc id ⟨ascending 0x50, ascending 0xa0⟩ [ascending 0x20, ascending 0x30] =
      ⟨[ascending 0xd0, ascending 0xc0], ⟨ascending 0x30, ascending 0xc0⟩⟩ := by decide

/-- V17: the identity oracle, decryption; the IV is unchanged. -/
theorem test_decrypt_identity :
    igeDec id ⟨ascending 0x50, ascending 0xa0⟩ [ascending 0xd0, ascending 0xc0] =
      ⟨[ascending 0x20, ascending 0x30], ⟨ascending 0x50, ascending 0xa0⟩⟩ := by decide

/-- V18: an encryption that leaves the IV as it was. -/
theorem test_encrypt_keeps_iv :
    (igeEnc id ⟨ascending 0x50, ascending 0xa0⟩ [ascending 0x50]).iv = ⟨ascending 0x50, ascending 0xa0⟩ := by decide

/-- V16: the register words of the committed IV. -/
theorem test_iv_words :
    halvesToRegs (ascending 0xc0) (ascending 0x30) =
      #v[0xc3c2c1c0, 0xc7c6c5c4, 0xcbcac9c8, 0xcfcecdcc, 0x33323130, 0x37363534, 0x3b3a3938, 0x3f3e3d3c] := by
  decide

/-- V2: the key words of the ASCII key. -/
theorem test_key_bytes :
    ({ Ctl.atReset 0 with
        key := #v[0x73696854, 0x20736920, 0x69206e61, 0x656c706d, 0, 0, 0, 0], keyLen := 16 } : Ctl).keyBytes =
      [0x54, 0x68, 0x69, 0x73, 0x20, 0x69, 0x73, 0x20, 0x61, 0x6e, 0x20, 0x69, 0x6d, 0x70, 0x6c, 0x65] := by decide

/-! ### Small states -/

/-- A controller configured as V1 (two blocks, a 16-byte key, encryption), at a given position of its transform, with
a response in the slot or none. -/
def busyCtl (q : SeqState) (p : Phase) (r : Option CoreResp) : Ctl :=
  let c : Ctl :=
    { Ctl.atReset 0 with
      dir := true
      seq := q
      ph := p
      blkcnt := if q = .closing then 2 else 0
      length := 0x20
      srcAddr := 0x1000
      dstAddr := 0x2000
      keyLen := 16
      oracleOpen := oracleExpected q p
      corePending := p.waiting
      coreResp := r
      cv := some .v128
      ck := some (List.replicate 16 0)
      race := ⟨some ⟨0x1000, 0x2000, 0x20, if q = .closing then 0x20 else 0⟩, [], [], []⟩ }
  { c with coreReq := if p.waiting && r.isNone then c.awaitedRequest else none }

/-- The machine whose one instance is at a given position. -/
def busyState (q : SeqState) (p : Phase) (r : Option CoreResp) : State :=
  { State.reset with ctl := busyCtl q p r }

/-- A draw of the core with every free byte `b`. -/
def drawn (ok : Bool) (b : Byte) : CoreDraw :=
  ⟨ok, same b, Vector.replicate 31 b⟩

/-- A host access of four bytes at an offset of the window at 0. -/
def access (write : Bool) (off d : Word) : Event :=
  .host ⟨write, off, 4, d⟩

/-- The state one step after an event, or the state itself where the step stops. -/
def after (e : Event) (s : State) : State :=
  match step { s with inbox := [e] } with
  | .next t => t
  | .fault _ => s
  | .refused _ => s

/-! ### Single steps -/

/-- V23: `WR CTRL, 0xFFFFFFF8` ignores the reserved bits and starts nothing. -/
theorem test_wrCtrl_reserved_bits :
    (after (access true 0x00 0xFFFFFFF8) .reset).ctl.seq = .idle ∧
    (after (access true 0x00 0xFFFFFFF8) .reset).ctl.ctrlWord = 0 := by decide

/-- R89: after reset, `WR CTRL, 0x3` gives `STATE = VALIDATING`, `DIR = 1`, `DONE = 0`. -/
theorem test_wrCtrl_start :
    (after (access true 0x00 0x3) .reset).ctl.seq = .validating ∧
    (after (access true 0x00 0x3) .reset).ctl.dir = true ∧
    (after (access true 0x00 0x3) .reset).ctl.done = false := by decide

/-- R122: with `IE` and `DIR` set, `RD CTRL` returns 6. -/
theorem test_rdCtrl :
    (after (access false 0x00 0) { State.reset with ctl := { Ctl.atReset 0 with ie := true, dir := true } }).ctl.hostResp
      = .data 0x6 := by decide

/-- R124: after a success `RD STATUS` returns 0x52; in SETUP it returns 0x21 (P7). -/
theorem test_rdStatus :
    (after (access false 0x04 0)
        { State.reset with ctl := { Ctl.atReset 0 with seq := .completed, done := true } }).ctl.hostResp
      = .data 0x52 ∧
    (after (access false 0x04 0) (busyState .setup .openWait none)).ctl.hostResp = .data 0x21 := by decide

/-- R125: `W1C STATUS, 0x6` after a success leaves 0x50. -/
theorem test_wrStatus :
    (after (access true 0x04 0x6)
        { State.reset with ctl := { Ctl.atReset 0 with seq := .completed, done := true, wbusy := true } }).ctl.statusWord
      = 0x50 := by decide

theorem test_rdErrcode :
    (after (access false 0x08 0)
        { State.reset with ctl := { Ctl.atReset 0 with seq := .failed, err := .invalidLength } }).ctl.hostResp
      = .data 0x1 := by decide

/-- V23: `WR ERRCODE, 5` is ignored and `WBUSY` stays 0, also while BUSY. -/
theorem test_wrErrcode :
    (after (access true 0x08 0x5) (busyState .setup .key none)).ctl.errWord = 0 ∧
    (after (access true 0x08 0x5) (busyState .setup .key none)).ctl.wbusy = false := by decide

theorem test_rdBlkcnt :
    (after (access false 0x0C 0) (busyState .closing .close none)).ctl.hostResp = .data 0x2 := by decide

theorem test_wrBlkcnt :
    (after (access true 0x0C 0x7) .reset).ctl.blkcnt = 0 := by decide

/-- V23: `WR LENGTH, 0x40` while `STATE = SETUP` sets `WBUSY` only. -/
theorem test_wrLength_busy :
    (after (access true 0x10 0x40) (busyState .setup .openWait none)).ctl.length = 0x20 ∧
    (after (access true 0x10 0x40) (busyState .setup .openWait none)).ctl.wbusy = true := by decide

theorem test_wrLength_rdLength :
    (after (access true 0x10 0x21) .reset).ctl.length = 0x21 ∧
    (after (access false 0x10 0) (busyState .setup .key none)).ctl.hostResp = .data 0x20 := by decide

theorem test_source_and_destination :
    (after (access true 0x14 0x1000) .reset).ctl.srcAddr = 0x1000 ∧
    (after (access true 0x18 0x2000) .reset).ctl.dstAddr = 0x2000 ∧
    (after (access false 0x14 0) (busyState .setup .key none)).ctl.hostResp = .data 0x1000 ∧
    (after (access false 0x18 0) (busyState .setup .key none)).ctl.hostResp = .data 0x2000 := by decide

/-- V23: `WR KEY_LEN, 0x110` is held. -/
theorem test_keyLen :
    (after (access true 0x1C 0x110) .reset).ctl.keyLen = 0x110 ∧
    (after (access false 0x1C 0) (busyState .setup .key none)).ctl.hostResp = .data 0x10 := by decide

/-- V23: `WR KEY3, 0x0f0e0d0c` sets key bytes 12 to 15, and `RD KEY3` returns 0. -/
theorem test_key_register :
    ((registerBytes (after (access true 0x2C 0x0f0e0d0c) .reset).ctl.key).drop 12).take 5 =
      [0x0c, 0x0d, 0x0e, 0x0f, 0x00] ∧
    (after (access false 0x2C 0) { State.reset with
        ctl := { Ctl.atReset 0 with key := Vector.replicate 8 0xFFFFFFFF } }).ctl.hostResp = .data 0 := by decide

/-- V23: `WR IV5, 0x17161514`; the register reads back. -/
theorem test_iv_register :
    (after (access true 0x54 0x17161514) .reset).ctl.iv.get 5 = 0x17161514 ∧
    (after (access false 0x54 0) { State.reset with
        ctl := { Ctl.atReset 0 with iv := (Vector.replicate 8 0).set 5 0x17161514 } }).ctl.hostResp =
      .data 0x17161514 := by decide

/-- V23: `RD 0x7C` returns 0 with no error; `WR 0x60, 1` is ignored while BUSY without `WBUSY`. -/
theorem test_reserved :
    (after (access false 0x7C 0) .reset).ctl.hostResp = .data 0 ∧
    (after (access true 0x60 1) (busyState .setup .key none)).ctl.wbusy = false := by decide

/-- V23: an 8-bit read at 0x04, a 32-bit read at 0x06, and one at 0x80 are slave errors. -/
theorem test_slave_errors :
    (after (.host ⟨false, 0x04, 1, 0⟩) .reset).ctl.hostResp = .slaveError ∧
    (after (access false 0x06 0) .reset).ctl.hostResp = .slaveError ∧
    (after (access false 0x80 0) .reset).ctl.hostResp = .slaveError := by decide

/-- R110: a successful OPEN sets the variant; a failed one does not. -/
theorem test_coreOpen :
    (after (.core (drawn true 0)) { State.reset with
        ctl := { Ctl.atReset 0 with corePending := true, coreReq := some (CoreWord.ofNat (0x0080 <<< 256)) } }).ctl.cv
      = some .v256 ∧
    (after (.core (drawn false 0)) { State.reset with
        ctl := { Ctl.atReset 0 with corePending := true, coreReq := some (CoreWord.ofNat (0x0080 <<< 256)) } }).ctl.cv
      = none := by decide

/-- R111: SET_KEY keeps the first `klen` bytes of `data`. -/
theorem test_coreSetKey :
    (after (.core (drawn true 0)) { State.reset with
        ctl := { Ctl.atReset 0 with
          corePending := true, coreReq := some (CoreWord.ofNat ((0x0110 <<< 256) + (0xEE <<< 128) + 0x0100)) } }).ctl.ck
      = some [0x00, 0x01, 0, 0, 0, 0, 0, 0, 0, 0, 0, 0, 0, 0, 0, 0] := by decide

/-- R111: a SET_KEY with `klen` 33 runs, its last key byte being any byte. -/
theorem test_coreSetKey_beyond_data :
    (after (.core (drawn true 0x5a)) { State.reset with
        ctl := { Ctl.atReset 0 with
          corePending := true, coreReq := some (CoreWord.ofNat ((0x0121 <<< 256) + 0x0100)) } }).ctl.ck
      = some ([0x00, 0x01] ++ List.replicate 30 0 ++ [0x5a]) := by decide

/-- R112, R113: a failed answer carries any block. -/
theorem test_coreEnc_coreDec_failed :
    (after (.core (drawn false 0x5a)) (busyState .processing .cipherWait none)).ctl.coreResp =
      some ⟨false, same 0x5a⟩ ∧
    (after (.core (drawn false 0xa5)) { State.reset with
        ctl := { Ctl.atReset 0 with corePending := true, coreReq := some (CoreWord.ofNat (0x0300 <<< 256)) } }).ctl.coreResp
      = some ⟨false, same 0xa5⟩ := by decide

/-- R114: CLOSE releases the core. -/
theorem test_coreClose :
    (after (.core (drawn false 1)) (busyState .closing .closeWait none)).ctl.cv = none ∧
    (after (.core (drawn false 1)) (busyState .closing .closeWait none)).ctl.ck = none := by decide

/-- R90: `LENGTH = 0x21`, `KEY_LEN = 16` gives `ERRCODE = 1` and FAILED, status 0x62 (P3). -/
theorem test_validate_length :
    (State.controllerStep (same 0) { State.reset with
        ctl := { busyCtl .validating .none none with length := 0x21 } }).ctl.errWord = 1 ∧
    (State.controllerStep (same 0) { State.reset with
        ctl := { busyCtl .validating .none none with length := 0x21 } }).ctl.statusWord = 0x62 := by decide

/-- V20: `KEY_LEN = 0x110` fails with code 2, and with a bad length too code 1 wins. -/
theorem test_validate_key_length :
    (State.controllerStep (same 0) { State.reset with
        ctl := { busyCtl .validating .none none with keyLen := 0x110 } }).ctl.errWord = 2 ∧
    (State.controllerStep (same 0) { State.reset with
        ctl := { busyCtl .validating .none none with length := 0x21, keyLen := 33 } }).ctl.errWord = 1 := by decide

/-- R95: with `BLKCNT = 1`, `SRC_ADDR = 0x1000`, the block at 0x1010 is fetched. -/
theorem test_fetch_address :
    (State.controllerStep (same 0) { State.reset with
        mem := [(0x100F, 1), (0x1010, 2), (0x101F, 3), (0x1020, 4)]
        ctl := { busyCtl .processing .fetch none with blkcnt := 1 } }).ctl.inBlk =
      #v[2, 0, 0, 0, 0, 0, 0, 0, 0, 0, 0, 0, 0, 0, 0, 3] := by decide

/-- P6: a write refused at 0x2015 leaves the five bytes before it written, code 5 and CLOSING. -/
theorem test_write_refused :
    (State.controllerStep (same 0) { State.reset with
        deny := [⟨.write, 0x2015, 1⟩]
        ctl := { busyCtl .processing .write none with blkcnt := 1, outBlk := ascending 0x3c } }).mem =
      [(0x2010, 0x3c), (0x2011, 0x3d), (0x2012, 0x3e), (0x2013, 0x3f), (0x2014, 0x40)] ∧
    (State.controllerStep (same 0) { State.reset with
        deny := [⟨.write, 0x2015, 1⟩]
        ctl := { busyCtl .processing .write none with blkcnt := 1, outBlk := ascending 0x3c } }).ctl.errWord = 5 := by
  decide

/-- R101: a CLOSE answered with `ok = 0` still completes, with status 0x52 (V21). -/
theorem test_close_ignores_ok :
    (State.controllerStep (same 0) (busyState .closing .closeWait (some ⟨false, same 9⟩))).ctl.statusWord = 0x52 := by
  decide

/-- R161: reset in the middle of a transform leaves IDLE; one that falls after three byte writes of a block leaves those
three, and one in another phase leaves memory as it was. -/
theorem test_reset_event :
    let s : State := { busyState .processing .write none with mem := [(0x2000, 7), (0x2003, 7)] }
    (after (.reset 3 (same 0)) { s with ctl := { s.ctl with outBlk := same 9 } }).ctl = Ctl.atReset 0 ∧
    (after (.reset 3 (same 0)) { s with ctl := { s.ctl with outBlk := same 9 } }).mem =
      [(0x2000, 9), (0x2001, 9), (0x2002, 9), (0x2003, 7)] ∧
    (after (.reset 3 (same 0)) { s with ctl := { s.ctl with ph := .fetch, outBlk := same 9 } }).mem = s.mem := by decide

/-- R39, R159: an access in another instance's window goes to that instance. -/
theorem test_routing :
    let s : State := { State.reset with others := [Ctl.atReset 0x1000] }
    (after (access true 0x1010 0x40) s).others[0]?.map (·.length) = some 0x40 ∧
    (after (access true 0x1010 0x40) s).ctl = s.ctl := by decide

/-- R54: a second START leaves the first transform's ranges unsettled until the host reads `DONE = 1`. -/
theorem test_second_start :
    let s : State := { State.reset with ctl := { busyCtl .completed .none none with done := true, srcAddr := 0x5000 } }
    (after (access true 0x00 0x3) s).ctl.covers 0x1000 = true ∧
    (after (access true 0x00 0x3) s).ctl.covers 0x5000 = true ∧
    (after (access false 0x04 0) s).ctl.covers 0x1000 = false := by decide

/-- R159: the ranges of another instance race while it runs and not after it has ended. -/
theorem test_contested_while_running :
    let s (q : SeqState) (p : Phase) : State := { State.reset with others := [busyCtl q p none] }
    (s .processing .fetch).contested 0x101F = true ∧ (s .completed .none).contested 0x101F = false := by decide

/-- A write of the value an unlisted byte reads as removes the entry, and entries stay in rising order. -/
theorem test_memory_form :
    memPut [(1, 5), (3, 6)] 2 9 = [(1, 5), (2, 9), (3, 6)] ∧ memPut [(1, 5), (3, 6)] 3 0 = [(1, 5)] ∧
    Memory.wf [(1, 5), (1, 6)] = false ∧ Memory.wf [(1, 0)] = false := by decide

/-- The first step after reset runs the operation placed by `withFetchWord`, on each port. -/
theorem test_placed_words :
    step (State.reset.withFetchWord 8 0x90) = exec (.wrLength 0) State.reset ∧
    (match step (State.reset.withFetchWord 267 (0x0040 <<< 256)) with
      | .next t => t
      | .fault _ => State.reset
      | .refused _ => State.reset).ctl.cv = some .v192 := by
  exact ⟨by rfl, by decide⟩

/-! ### Witnesses: for every statement with hypotheses, states and operands that meet them all, clause by clause -/

/-- The states of `busyCtl` are legal. -/
theorem busyCtl_legal (q : SeqState) (p : Phase) (r : Option CoreResp) (hp : phaseLegal q p = true)
    (hr : p.waiting = false → r = none) (hq : q ≠ .failed) : (busyCtl q p r).Legal where
  phase := hp
  irqLine := rfl
  notDone := fun _ => rfl
  oracle := rfl
  pending := rfl
  slot := hr
  request := by
    cases p <;> cases r <;> rfl
  config := fun _ =>
    ⟨(by decide : ((0x20#32).extractLsb' 0 4 == 0#4) = true), (by decide : keyLengthOk (16#32).toNat = true)⟩
  cleanErr := fun _ => rfl
  failedErr := fun h => absurd h hq
  closingErr := fun _ => rfl
  countStart := by
    rintro (h | h | h)
    · simp only [busyCtl] at h ⊢
      simp [h]
    · simp only [busyCtl] at h ⊢
      simp [h]
    · simp [busyCtl, Ctl.atReset, ErrCode.beforeBlocks] at h
  countBlock := by
    intro h
    simp only [busyCtl] at h
    subst h
    exact (by decide : (0#32).toNat < (0x20#32 >>> 4).toNat)
  countDone := by
    intro h _
    simp only [busyCtl] at h
    subst h
    exact (by decide : (2#32 : Word) = 0x20#32 >>> 4)
  countMax := by
    simp only [busyCtl]
    split <;> decide
  openWindow := fun _ =>
    ⟨if q = .closing then 0x20 else 0, by
      rw [show (busyCtl q p r).nBlocks.toNat = 2 from by simp [Ctl.nBlocks, busyCtl]]
      rfl⟩

theorem busyState_legal (q : SeqState) (p : Phase) (r : Option CoreResp) (hp : phaseLegal q p = true)
    (hr : p.waiting = false → r = none) (hq : q ≠ .failed) : (busyState q p r).Legal :=
  ⟨busyCtl_legal q p r hp hr hq, fun _ h => absurd h List.not_mem_nil⟩

/-- O1, PlacedWordRunsNext: a well-formed operation of each port. -/
theorem witness_wellFormed :
    (Instr.wrIv 7 0xFFFFFFFF).wellFormed = true ∧ (Instr.coreSetKey ⟨32, Vector.replicate 32 0xFF⟩).wellFormed = true := by
  decide

/-- HostAccessRunsDecodedOperation, RefusedAccessIsASlaveError (second clause): the access at the last offset, 0x7C. -/
theorem witness_host_access :
    let s : State := { State.reset with inbox := [access true 0x7C 1] }
    s.inbox = .host ⟨true, 0x7C, 4, 1⟩ :: [] ∧ (0x7C#32 - s.ctl.regBase).extractLsb' 0 2 = 0#2 ∧
    (0x7C#32 - s.ctl.regBase).toNat ≤ 0x7C ∧
    decodeHost ⟨BitVec.ofBool true ++ (0x7C#32 - s.ctl.regBase).extractLsb' 0 7, 1⟩ = .ok (.wrRsvd 7 1) := by decide

/-- Three instances, whose windows start at 0, at 0x80 and at 0x1000. -/
def threeInstances : State :=
  { State.reset with others := [Ctl.atReset 0x80, Ctl.atReset 0x1000] }

/-- HostAccessRunsDecodedOperation (second clause): the first offset of a window that follows the selected one's, and
the last offset of the other; RefusedAccessIsASlaveError (fourth clause): the same two. -/
theorem witness_routed_access :
    let s := threeInstances
    (s.others[0]? = some (Ctl.atReset 0x80) ∧ 128 ≤ (0x80#32 - s.ctl.regBase).toNat ∧
      128 ≤ (0x80#32 - 0x1000#32).toNat ∧ (0x80#32 - 0x80#32).extractLsb' 0 2 = 0#2 ∧
      (0x80#32 - 0x80#32).toNat ≤ 0x7C ∧
      decodeHost ⟨BitVec.ofBool false ++ (0x80#32 - 0x80#32).extractLsb' 0 7, 0⟩ = .ok .rdCtrl) ∧
    (s.others[1]? = some (Ctl.atReset 0x1000) ∧ 128 ≤ (0x107C#32 - s.ctl.regBase).toNat ∧
      128 ≤ (0x107C#32 - 0x80#32).toNat ∧ (0x107C#32 - 0x1000#32).extractLsb' 0 2 = 0#2 ∧
      (0x107C#32 - 0x1000#32).toNat ≤ 0x7C ∧
      decodeHost ⟨BitVec.ofBool true ++ (0x107C#32 - 0x1000#32).extractLsb' 0 7, 5⟩ = .ok (.wrRsvd 7 5)) ∧
    ∀ (j : Nat) (d : Ctl), j ≠ 0 → s.others[j]? = some d → 128 ≤ (0x80#32 - d.regBase).toNat := by
  refine ⟨by decide, by decide, fun j d hj hd => ?_⟩
  match j, hj with
  | 1, _ => cases hd; decide
  | j + 2, _ => simp [threeInstances] at hd

/-- RefusedAccessIsASlaveError: a bad size, a bad offset and the last byte of the selected window (first clause), a bad
offset in another window (third clause), and the first address beyond every window, 0x100 (last clause). -/
theorem witness_refused_access :
    let s := threeInstances
    (2 ≠ 4) ∧ (0x7D#32 - s.ctl.regBase).extractLsb' 0 2 ≠ 0#2 ∧ (0x7F#32 - s.ctl.regBase).toNat > 0x7C ∧
    (0x7F#32 - s.ctl.regBase).toNat < 128 ∧
    (0x82#32 - 0x80#32).extractLsb' 0 2 ≠ 0#2 ∧ (0x82#32 - 0x80#32).toNat < 128 ∧
    128 ≤ (0x82#32 - s.ctl.regBase).toNat ∧ 128 ≤ (0x82#32 - 0x1000#32).toNat ∧
    128 ≤ (0x100#32 - s.ctl.regBase).toNat ∧ (∀ c ∈ s.others, 128 ≤ (0x100#32 - c.regBase).toNat) ∧
    ({ s with inbox := [access false 0x100 0] } : State).inbox = .host ⟨false, 0x100, 4, 0⟩ :: [] := by decide

/-- CoreStepRunsDecodedRequest, and the two ways the core has no move (OtherAgentsSteps). -/
theorem witness_core_step :
    let s : State := { busyState .closing .closeWait none with inbox := [.core (drawn true 0)] }
    s.inbox = .core (drawn true 0) :: [] ∧ s.ctl.corePending = true ∧ s.ctl.coreReq = some closeRequest ∧
    s.ctl.coreResp = none ∧ decodeCore closeRequest = .ok .coreClose ∧
    (busyState .setup .key none).ctl.corePending = false ∧
    (busyState .setup .openWait (some ⟨true, same 0⟩)).ctl.coreResp.isSome = true := by decide

/-- OtherAgentsSteps: a schedule that starts with each of the other events, and an empty one; a byte that a transform has
written, and one it has not; an instance that notes a store, and a selection that exists and one that does not. -/
theorem witness_other_events :
    State.reset.inbox = [] ∧
    ({ State.reset with inbox := [.controller (same 0), .hostLoad 5 0] } : State).inbox =
      .controller (same 0) :: [.hostLoad 5 0] ∧
    ({ State.reset with inbox := [.hostStore 5 1 2] } : State).inbox = .hostStore 5 1 2 :: [] ∧
    ({ State.reset with inbox := [.hostLoad 5 0] } : State).inbox = .hostLoad 5 0 :: [] ∧
    ({ State.reset with inbox := [.platform []] } : State).inbox = .platform [] :: [] ∧
    State.reset.mem.wf = true ∧
    (busyCtl .closing .close none).hasWritten 0x201F = true ∧ (busyCtl .closing .close none).hasWritten 0x2020 = false ∧
    (busyCtl .closing .close none).busy = true ∧ (0x201F#32 - 0x2000#32).toNat < 0x20 ∧
    ({ threeInstances with inbox := [.select 1] } : State).inbox = .select 1 :: [] ∧
    threeInstances.others[1]? = some (Ctl.atReset 0x1000) ∧ threeInstances.others[2]? = none := by decide

/-- ControlWriteStartsATransform (both clauses) and ConfigurationWritesSetTheirRegister: not BUSY. -/
theorem witness_not_busy :
    State.reset.ctl.busy = false ∧ (busyState .completed .none none).ctl.busy = false ∧
    (0x6#32).getLsbD 0 = false ∧ (0x7#32).getLsbD 0 = true := by decide

/-- WritesWhileBusySetWbusy: BUSY, in each of the four states that count as BUSY. -/
theorem witness_busy :
    (busyState .validating .none none).ctl.busy = true ∧ (busyState .setup .key none).ctl.busy = true ∧
    (busyState .processing .write none).ctl.busy = true ∧ (busyState .closing .close none).ctl.busy = true := by decide

/-- CoreLifecycleAnswers: the last `klen` that `data` holds, and the first that it does not. -/
theorem witness_key_lengths : (32#6).toNat ≤ 32 ∧ 32 < (33#6).toNat := by decide

/-- CoreCipherAnswers: an opened and keyed core, and one that is not. -/
theorem witness_core_cipher :
    (busyState .processing .cipherWait none).ctl.cv = some .v128 ∧
    (busyState .processing .cipherWait none).ctl.ck = some (List.replicate 16 0) ∧ State.reset.ctl.cv = none ∧
    State.reset.ctl.ck = none := by decide

/-- OperationsFrame: a step that answers a next state, for an operation that is no `CTRL` write. -/
theorem witness_operations_frame :
    exec .rdLength State.reset = .next (State.reset.mapCtl fun c => c.answer (.data 0)) ∧
    ∀ d, Instr.rdLength ≠ .wrCtrl d := by
  exact ⟨by rfl, fun _ h => Instr.noConfusion h⟩

/-- KeyIsNotObservable: an operation that is no key write and answers a next state. -/
theorem witness_key_hidden :
    exec (.rdKey 0) State.reset = .next (State.reset.mapCtl fun c => c.answer (.data 0)) ∧
    ∀ n d, Instr.rdKey 0 ≠ .wrKey n d := by
  exact ⟨by rfl, fun _ _ h => Instr.noConfusion h⟩

/-- ValidationStep: each of the three clauses; the key lengths next to the valid ones are invalid. -/
theorem witness_validation :
    let s := busyState .validating .none none
    s.ctl.seq = .validating ∧ s.ctl.ph = .none ∧ s.ctl.oracleOpen = false ∧
    ((0x21 : Word).extractLsb' 0 4 ≠ 0#4) ∧ (s.ctl.length.extractLsb' 0 4 = 0#4) ∧ s.ctl.keyLen = 16#32 ∧
    ((33#32 : Word) ≠ 16#32 ∧ (33#32 : Word) ≠ 24#32 ∧ (33#32 : Word) ≠ 32#32) := by decide

/-- CoreSetupSteps: the seven clauses. -/
theorem witness_core_setup :
    let ok : CoreResp := ⟨true, same 0⟩
    let bad : CoreResp := ⟨false, same 0⟩
    let empty : State :=
      { busyState .setup .keyWait (some ok) with ctl := { busyCtl .setup .keyWait (some ok) with length := 0 } }
    (busyState .setup .openReq none).ctl.ph = .openReq ∧ (busyState .setup .openReq none).ctl.keyLen.toNat = 16 ∧
    ({ busyCtl .setup .openReq none with keyLen := 24 } : Ctl).keyLen.toNat = 24 ∧
    ({ busyCtl .setup .openReq none with keyLen := 32 } : Ctl).keyLen.toNat = 32 ∧
    (busyState .setup .openWait (some ok)).ctl.coreResp = some ok ∧ ok.ok = true ∧
    (busyState .setup .openWait (some bad)).ctl.coreResp = some bad ∧ bad.ok = false ∧
    (busyState .setup .openWait (some bad)).ctl.oracleOpen = false ∧
    (busyState .setup .key none).ctl.ph = .key ∧
    (busyState .setup .keyWait (some ok)).ctl.length >>> 4 ≠ 0#32 ∧
    empty.ctl.seq = .setup ∧ empty.ctl.ph = .keyWait ∧ empty.ctl.length >>> 4 = 0#32 ∧
    (busyState .setup .keyWait (some bad)).ctl.oracleOpen = true := by decide

/-- BlockFetch: every byte read accepted, one refused, and a byte that races. -/
theorem witness_fetch :
    let s := busyState .processing .fetch none
    s.ctl.seq = .processing ∧ s.ctl.ph = .fetch ∧
    (∀ k, s.memOk (byteAddr (s.ctl.srcAddr + 16#32 * s.ctl.blkcnt) k) .read = true) ∧
    ({ s with deny := [⟨.read, 0x100F, 1⟩] } : State).memOk (byteAddr (s.ctl.srcAddr + 16#32 * s.ctl.blkcnt) 15) .read
      = false ∧ s.ctl.oracleOpen = true ∧
    (s.hostStore 0x100F 1 2).contested (byteAddr (s.ctl.srcAddr + 16#32 * s.ctl.blkcnt) 15) = true ∧
    (s.hostStore 0x100F 1 2).contested (byteAddr (s.ctl.srcAddr + 16#32 * s.ctl.blkcnt) 14) = false := by decide

/-- CipherSteps: the request, an answer of each kind, and no answer yet. -/
theorem witness_cipher :
    (busyState .processing .cipher none).ctl.ph = .cipher ∧
    (busyState .processing .cipherWait (some ⟨true, same 1⟩)).ctl.coreResp = some ⟨true, same 1⟩ ∧
    (busyState .processing .cipherWait (some ⟨false, same 1⟩)).ctl.coreResp = some ⟨false, same 1⟩ ∧
    (busyState .processing .cipherWait (some ⟨false, same 1⟩)).ctl.oracleOpen = true ∧
    (busyState .processing .cipherWait none).ctl.coreResp = none ∧
    (busyState .processing .cipherWait none).ctl.seq = .processing := by decide

/-- BlockWriteAccepted: no byte races, and one does. -/
theorem witness_write_accepted :
    let s := busyState .processing .write none
    s.ctl.seq = .processing ∧ s.ctl.ph = .write ∧ s.mem.wf = true ∧
    (∀ k, s.memOk (byteAddr (s.ctl.dstAddr + 16#32 * s.ctl.blkcnt) k) .write = true) ∧
    (∀ k, s.contested (byteAddr (s.ctl.dstAddr + 16#32 * s.ctl.blkcnt) k) = false) ∧
    (s.hostStore 0x2000 1 2).contested (byteAddr (s.ctl.dstAddr + 16#32 * s.ctl.blkcnt) 0) = true := by decide

/-- BlockWriteRefused: the first byte refused, and the last. -/
theorem witness_write_refused :
    let s : State := { busyState .processing .write none with deny := [⟨.write, 0x2000, 1⟩] }
    let t : State := { busyState .processing .write none with deny := [⟨.write, 0x200F, 1⟩] }
    (s.ctl.seq = .processing ∧ s.ctl.ph = .write ∧ s.mem.wf = true ∧ s.ctl.oracleOpen = true) ∧
    s.memOk (byteAddr (s.ctl.dstAddr + 16#32 * s.ctl.blkcnt) 0) .write = false ∧
    (∀ m, m < 15 → t.memOk (byteAddr (t.ctl.dstAddr + 16#32 * t.ctl.blkcnt) m) .write = true) ∧
    t.memOk (byteAddr (t.ctl.dstAddr + 16#32 * t.ctl.blkcnt) 15) .write = false := by decide

/-- FailurePath: the core open, and not open. -/
theorem witness_failure_path :
    (busyCtl .processing .fetch none).oracleOpen = true ∧ (busyCtl .validating .none none).oracleOpen = false := by
  decide

/-- ReleaseAndCommit: the request, the end of a failure, of an encryption, of a decryption and of an empty message. -/
theorem witness_release :
    let c := busyCtl .closing .closeWait (some ⟨true, same 0⟩)
    (busyState .closing .close none).ctl.ph = .close ∧
    (c.seq = .closing ∧ c.ph = .closeWait ∧ c.coreResp = some ⟨true, same 0⟩) ∧
    ({ c with err := .blockOperationFailure } : Ctl).err ≠ .none ∧ c.err = .none ∧
    (c.dir = true ∧ c.length >>> 4 ≠ 0#32) ∧ ({ c with dir := false } : Ctl).dir = false ∧
    ({ c with length := 0 } : Ctl).length >>> 4 = 0#32 := by decide

/-- NoStepWhenNoneIsEnabled: after completion, and in a wait phase before the answer. -/
theorem witness_no_step :
    (busyState .completed .none none).Legal ∧ (busyState .completed .none none).ctl.enabled = false ∧
    (busyState .setup .keyWait none).Legal ∧ (busyState .setup .keyWait none).ctl.enabled = false :=
  ⟨busyState_legal _ _ _ rfl (fun _ => rfl) (by decide), by decide,
    busyState_legal _ _ _ rfl (fun _ => rfl) (by decide), by decide⟩

/-- OnlyKeyLenBytesReachTheCore: two key register files that agree on 16 bytes and differ on the next. -/
theorem witness_key_prefix :
    let c := busyCtl .setup .key none
    (∀ j : Fin 32, j.val < c.keyLen.toNat → registerByte (c.key.set 4 0xFFFFFFFF) j = registerByte c.key j) ∧
    registerByte (c.key.set 4 0xFFFFFFFF) 16 ≠ registerByte c.key 16 := by decide

/-- DecryptionRetracesTheChain and DecryptionUndoesEncryption: the identity oracle satisfies `InvLaw`. -/
theorem witness_invLaw :
    Config.InvLaw (fun _ _ b => b) (fun _ _ b => b) ∧ (List.replicate 24 (0 : Byte)).length = Variant.v192.keyBytes :=
  ⟨fun _ _ _ _ => rfl, by decide⟩

/-- MessageMaySplit: the last blocks of a first part of one block. -/
theorem witness_split :
    (igeDec id ⟨ascending 0x50, ascending 0xa0⟩ [ascending 0xd0]).outs.getLast? = some (ascending 0x20) ∧
    [ascending 0xd0].getLast? = some (ascending 0xd0) := by decide

/-- FirstDifferenceShows: the identity is injective, and two blocks differ (its last clause: witness_invLaw). -/
theorem witness_injective :
    (∀ a b : Block, id a = id b → a = b) ∧ ascending 0x20 ≠ ascending 0x21 :=
  ⟨fun _ _ h => h, by decide⟩

/-- ResetValues: the state after reset, an instance reset in mid-transform, and a reset scheduled in the write phase, of
which a byte is written, one is refused and one is not reached, and in another phase. -/
theorem witness_reset :
    let s : State := { busyState .processing .write none with
      deny := [⟨.write, 0x2002, 1⟩], inbox := [.reset 5 (same 0)] }
    (∃ u : Ctl, Ctl.atReset 0 = u.rst) ∧ s.inbox = .reset 5 (same 0) :: [] ∧ s.mem.wf = true ∧
    (s.ctl.seq = .processing ∧ s.ctl.ph = .write) ∧
    (∀ m, m ≤ 1 → s.memOk (byteAddr (s.ctl.dstAddr + 16#32 * s.ctl.blkcnt) m) .write = true) ∧
    s.memOk (byteAddr (s.ctl.dstAddr + 16#32 * s.ctl.blkcnt) 2) .write = false ∧ 5 ≤ (5 : Fin 16).val ∧
    ¬((busyState .processing .fetch none).ctl.seq = .processing ∧ (busyState .processing .fetch none).ctl.ph = .write) :=
  ⟨⟨busyCtl .processing .write none, rfl⟩, by decide⟩

/-- StepKeepsLegal, LegalMachineNeverStops, StepKeepsMemoryCanonical: a legal state whose step is the controller's. -/
theorem witness_legal_step :
    ∃ s t : State, s.Legal ∧ s.mem.wf = true ∧ step s = .next t :=
  ⟨{ busyState .processing .write none with inbox := [.controller (same 0)] }, _,
    busyState_legal .processing .write none rfl (fun _ => rfl) (by decide), by decide, rfl⟩

/-- The core of `busyCtl` before its first block tracks the transform. -/
theorem busyCtl_tracks : (busyCtl .processing .fetch none).Tracks where
  openAnswer := by intro r h; cases h
  opened := fun _ _ => by rfl
  keyAnswer := by intro r h; cases h
  keyed := fun _ => by rfl
  cipherAnswer := by intro r h; cases h
  output := by intro h; cases h

/-- StepKeepsTracks: a legal state that tracks and whose step answers a next state. -/
theorem witness_tracks_step :
    ∃ s t : State, s.Legal ∧ s.Tracks ∧ step s = .next t :=
  ⟨{ busyState .processing .fetch none with inbox := [.controller (same 0)] }, _,
    busyState_legal .processing .fetch none rfl (fun _ => rfl) (by decide),
    ⟨busyCtl_tracks, fun _ h => absurd h List.not_mem_nil⟩, rfl⟩

/-- EnabledStepsRunOut: an enabled step of a legal machine, with the full count of R106 at START. -/
theorem witness_enabled :
    (busyState .validating .none none).Legal ∧ (busyState .validating .none none).ctl.enabled = true ∧
    (busyState .validating .none none).ctl.stepsLeft = 7 + 4 * 2 :=
  ⟨busyState_legal _ _ _ rfl (fun _ => rfl) (by decide), by decide, by decide⟩

/-- ConfigurationConstantWhileBusy: a configuration write while BUSY. -/
theorem witness_busy_write :
    let s : State := { busyState .setup .key none with inbox := [access true 0x10 0x40] }
    s.inbox = access true 0x10 0x40 :: [] ∧ (access true 0x10 0x40).isReset = false ∧
    (access true 0x10 0x40).isSelect = false ∧ s.ctl.busy = true ∧ ∃ t, step s = .next t :=
  ⟨rfl, rfl, rfl, by decide, _, rfl⟩

/-- ConfigurationConstantWhileBusy: the controller step that commits. -/
theorem witness_busy_commit :
    let s : State := { busyState .closing .closeWait (some ⟨true, same 0⟩) with inbox := [.controller (same 0)] }
    s.inbox = .controller (same 0) :: [] ∧ (Event.controller (same 0)).isReset = false ∧
    (Event.controller (same 0)).isSelect = false ∧ s.ctl.busy = true ∧ s.ctl.commits = true ∧
    ∃ t, step s = .next t ∧ t.ctl.busy = false :=
  ⟨rfl, rfl, rfl, by decide, by decide, _, rfl, by decide⟩

/-- FlagsRiseOnlyAsListed: `DONE` rises at the end of a transform, `WBUSY` at an ignored write. -/
theorem witness_flags_rise :
    (busyState .closing .closeWait (some ⟨true, same 0⟩)).ctl.done = false ∧
    (after (.controller (same 0)) (busyState .closing .closeWait (some ⟨true, same 0⟩))).ctl.done = true ∧
    (busyState .setup .key none).ctl.wbusy = false ∧
    (after (access true 0x00 0x3) (busyState .setup .key none)).ctl.wbusy = true := by decide

/-- FirstFailureIsReported: a legal state with a recorded failure, on its way through CLOSING. -/
theorem witness_failure_recorded :
    ∃ s : State, s.Legal ∧ s.ctl.err ≠ .none ∧ s.ctl.enabled = true := by
  refine ⟨{ State.reset with ctl := { busyCtl .closing .close none with err := .memoryAccessFailure } }, ⟨?_, ?_⟩,
    by decide, by decide⟩
  · have h := busyCtl_legal .closing .close none rfl (fun _ => rfl) (by decide)
    exact ⟨h.1, h.2, h.3, h.4, h.5, h.6, h.7, h.8, by decide, by decide, by decide, by decide,
      (by intro hh; cases hh), (by intro _ hh; cases hh), h.15, h.16⟩
  · exact fun _ h => absurd h List.not_mem_nil

/-- ControllerWritesOnlyItsOutputBlock: a controller step that changes a byte. -/
theorem witness_write_changes :
    let s : State := { State.reset with ctl := { busyCtl .processing .write none with outBlk := same 7 } }
    s.mem.wf = true ∧ (s.controllerStep (same 0)).byteAt 0x2000 ≠ s.byteAt 0x2000 := by decide

/-- ControllerReadsOnlyItsInputBlock: two memories that differ outside the input block. -/
theorem witness_same_input :
    let s := busyState .processing .fetch none
    ∀ k, memGet [(0x1010, 9)] (byteAddr (s.ctl.srcAddr + 16#32 * s.ctl.blkcnt) k).toNat =
      s.byteAt (byteAddr (s.ctl.srcAddr + 16#32 * s.ctl.blkcnt) k) := by decide

/-- InstancesAreIndependent: a machine of two instances takes a host access of the selected one, outside the other's
window. -/
theorem witness_instances :
    let s : State := { busyState .setup .key none with
      others := [Ctl.atReset 0x1000], inbox := [access false 0x04 0] }
    s.inbox = access false 0x04 0 :: [] ∧ (access false 0x04 0).isSelect = false ∧ s.others[0]? = some (Ctl.atReset 0x1000) ∧
    128 ≤ (0x04#32 - 0x1000#32).toNat ∧ ∃ t, step s = .next t ∧ t.others[0]? = some (Ctl.atReset 0x1000) :=
  ⟨rfl, rfl, rfl, by decide, _, rfl, rfl⟩

/-- RequestsAreSentInOrder: OPEN, SET_KEY, ENC and CLOSE are sent. -/
theorem witness_requests :
    (busyState .setup .openReq none).Legal ∧ (busyState .setup .openReq none).ctl.coreReq = none ∧
    (State.controllerStep (same 0) (busyState .setup .openReq none)).ctl.coreReq = some (openRequest 0) ∧
    (State.controllerStep (same 0) (busyState .setup .key none)).ctl.coreReq =
      some (setKeyRequest (List.replicate 16 0)) ∧
    (State.controllerStep (same 0) (busyState .processing .cipher none)).ctl.coreReq = some (encRequest (same 0)) ∧
    (State.controllerStep (same 0) (busyState .closing .close none)).ctl.coreReq = some closeRequest :=
  ⟨busyState_legal _ _ _ rfl (fun _ => rfl) (by decide), by decide, by decide, by decide, by decide, by decide⟩

/-- RacingHostRead: the first and the last byte of a range are covered, the byte after it is not; the last byte written
and the first not written; an instance with nothing unacquired. -/
theorem witness_race :
    let c : Ctl := { busyCtl .processing .fetch none with race := ⟨some ⟨0x1000, 0x2000, 0x20, 0x10⟩, [], [], []⟩ }
    c.covers 0x1000 = true ∧ c.covers 0x101F = true ∧ c.covers 0x1020 = false ∧ c.hasWritten 0x200F = true ∧
    c.hasWritten 0x2010 = false ∧ State.reset.ctl.race.window = none ∧ State.reset.ctl.race.earlier = [] := by decide

/-- ContestedBytes: a store into the last byte of the input range of a running transform, and a block write whose last
byte is the first of the range that another instance is running on. -/
theorem witness_contested :
    let s : State := { busyState .processing .write none with inbox := [.hostStore 0x101F 1 2] }
    let other : Ctl := { busyCtl .processing .fetch none with
      regBase := 0x80, srcAddr := 0x200F, dstAddr := 0x4000, race := ⟨some ⟨0x200F, 0x4000, 0x20, 0⟩, [], [], []⟩ }
    let t : State := { busyState .processing .write none with others := [other], inbox := [.controller (same 0)] }
    (s.inbox = .hostStore 0x101F 1 2 :: [] ∧ s.ctl.busy = true ∧
      s.ctl.race.window = some ⟨0x1000, 0x2000, 0x20, 0⟩ ∧ (0x101F#32 - 0x1000#32).toNat < 0x20) ∧
    (t.inbox = .controller (same 0) :: [] ∧ t.ctl.seq = .processing ∧ t.ctl.ph = .write ∧
      (∀ j, j ≤ 15 → t.memOk (byteAddr (t.ctl.dstAddr + 16#32 * t.ctl.blkcnt) j) .write = true) ∧
      0x200F#32 = byteAddr (t.ctl.dstAddr + 16#32 * t.ctl.blkcnt) 15 ∧ t.others[0]? = some other ∧ other.busy = true ∧
      other.race.window = some ⟨0x200F, 0x4000, 0x20, 0⟩ ∧ (0x200F#32 - 0x200F#32).toNat < 0x20) := by decide

/-- A controller that runs a transform of its own on `[0x8000, 0x8020)`. -/
def neighbour (q : SeqState) (p : Phase) : Ctl :=
  { busyCtl q p none with
    regBase := 0x80, srcAddr := 0x8000, dstAddr := 0x8000, race := ⟨some ⟨0x8000, 0x8000, 0x20, 0⟩, [], [], []⟩ }

theorem neighbour_legal : (neighbour .validating .none).Legal := by
  have h := busyCtl_legal .validating .none none rfl (fun _ => rfl) (by decide)
  exact ⟨h.1, h.2, h.3, h.4, h.5, h.6, h.7, h.8, h.9, h.10, h.11, h.12, h.13, h.14, h.15, fun _ => ⟨0, rfl⟩⟩

/-- A platform that refuses the four bytes before and after each of the ranges of `busyCtl`. -/
def fencedRanges : List DenyRange :=
  [⟨.read, 0xFFC, 4⟩, ⟨.read, 0x1020, 4⟩, ⟨.write, 0x1FFC, 4⟩, ⟨.write, 0x2020, 4⟩]

/-- A machine whose platform refuses what lies around the ranges of the selected controller, and whose other instance is
running: the ranges are usable all the same. -/
def crowdedState (c : Ctl) : State :=
  { State.reset with ctl := c, others := [neighbour .validating .none], deny := fencedRanges }

/-- An address in the 32 bytes from a base that do not wrap. -/
theorem near_base {base a : Addr} (hb : base.toNat < 0x8000) (h : (a - base).toNat < 32) :
    base.toNat ≤ a.toNat ∧ a.toNat < base.toNat + 32 := by
  have ha := a.isLt
  rw [BitVec.toNat_sub] at h
  omega

/-- An address below the ranges of `neighbour` does not race in a crowded machine. -/
theorem crowded_contested {q : SeqState} {p : Phase} {events : List Event} {a : Addr} (h : a.toNat < 0x8000) :
    State.contested { crowdedState (busyCtl q p none) with inbox := events } a = false := by
  have hr : ¬ (a - 0x8000#32).toNat < 32 := by
    rw [BitVec.toNat_sub, show (0x8000#32).toNat = 0x8000 from rfl]
    omega
  show (decide ((a - 0x8000#32).toNat < 32) || decide ((a - 0x8000#32).toNat < 32) || false) = false
  rw [decide_eq_false hr]
  rfl

/-- Both ranges of `busyCtl` are usable in a crowded machine. -/
theorem crowded_usable (q : SeqState) (p : Phase) (events : List Event) :
    rangesUsable { crowdedState (busyCtl q p none) with inbox := events } 2 := by
  intro a
  constructor <;> intro h
  · have hn := near_base (base := 0x1000#32) (by decide) h
    rw [show (0x1000#32).toNat = 0x1000 from rfl] at hn
    refine ⟨?_, crowded_contested (by omega)⟩
    simp [State.memOk, crowdedState, fencedRanges]
    omega
  · have hn := near_base (base := 0x2000#32) (by decide) h
    rw [show (0x2000#32).toNat = 0x2000 from rfl] at hn
    refine ⟨?_, crowded_contested (by omega)⟩
    simp [State.memOk, crowdedState, fencedRanges]
    omega

/-- OneBlockIsOneChainingStep and ControllerComputesIge: two blocks, out of place, beside refused addresses and another
running instance. -/
theorem witness_blocks :
    let blocks := [(same 0, drawn true 0), (same 1, drawn true 2)]
    let s : State := { crowdedState (busyCtl .processing .fetch none) with
      inbox := messageSchedule blocks ++ [.hostLoad 0x2000 0] }
    (s.Legal ∧ s.Tracks ∧ rangesUsable s 2) ∧
    s.mem.wf = true ∧ s.ctl.seq = .processing ∧ s.ctl.ph = .fetch ∧ s.ctl.blkcnt = 0#32 ∧
    2 = (s.ctl.length >>> 4).toNat ∧ blocks.length = 2 ∧ (∀ p ∈ blocks, p.2.ok = true) ∧
    16 * 2 ≤ (s.ctl.dstAddr - s.ctl.srcAddr).toNat ∧
    (∀ k, s.memOk (byteAddr (s.ctl.srcAddr + 16#32 * s.ctl.blkcnt) k) .read = true ∧
      s.contested (byteAddr (s.ctl.srcAddr + 16#32 * s.ctl.blkcnt) k) = false) ∧
    (∀ k, s.memOk (byteAddr (s.ctl.dstAddr + 16#32 * s.ctl.blkcnt) k) .write = true ∧
      s.contested (byteAddr (s.ctl.dstAddr + 16#32 * s.ctl.blkcnt) k) = false) ∧
    s.inbox = blockSchedule (same 0) (drawn true 0) ++ (blockSchedule (same 1) (drawn true 2) ++ [.hostLoad 0x2000 0]) ∧
    s.memOk 0x2020 .write = false ∧ s.contested 0x8000 = true := by
  refine ⟨⟨⟨busyCtl_legal _ _ _ rfl (fun _ => rfl) (by decide), ?_⟩, ⟨busyCtl_tracks, ?_⟩, ?_⟩, by decide⟩
  · exact List.forall_mem_singleton.mpr neighbour_legal
  · refine List.forall_mem_singleton.mpr ?_
    constructor <;> simp [neighbour, busyCtl, oracleExpected]
  · exact crowded_usable _ _ _

/-- TransformIsIge: an accepted START of two blocks beside refused addresses and another running instance, with answers
that differ, and a START of no block. -/
theorem witness_transform :
    let blocks := [(same 0, drawn true 0), (same 1, drawn true 2)]
    let s : State := { crowdedState (busyCtl .validating .none none) with
      inbox := setupSchedule (same 0) (drawn true 3) (drawn true 4) ++ messageSchedule blocks ++
        releaseSchedule (same 0) (drawn false 0) ++ [] }
    (s.Legal ∧ rangesUsable s 2) ∧ s.mem.wf = true ∧ s.ctl.seq = .validating ∧ s.ctl.wx = highHalf s.ctl.iv ∧
    s.ctl.wy = lowHalf s.ctl.iv ∧ 2 = (s.ctl.length >>> 4).toNat ∧ s.ctl.length.extractLsb' 0 4 = 0#4 ∧
    keyLengthOk s.ctl.keyLen.toNat = true ∧ (drawn true 3).ok = true ∧ (drawn true 4).ok = true ∧
    blocks.length = 2 ∧ (∀ p ∈ blocks, p.2.ok = true) ∧ 16 * 2 ≤ (s.ctl.dstAddr - s.ctl.srcAddr).toNat ∧
    (0#32 >>> 4).toNat = 0 := by
  refine ⟨⟨⟨busyCtl_legal _ _ _ rfl (fun _ => rfl) (by decide), ?_⟩, crowded_usable _ _ _⟩, by decide⟩
  exact List.forall_mem_singleton.mpr neighbour_legal

/-- TransformIsIge and ControllerComputesIge: a buffer of one block in place. -/
theorem witness_in_place :
    let c : Ctl := { busyCtl .validating .none none with
      length := 0x10, dstAddr := 0x1000, race := ⟨some ⟨0x1000, 0x1000, 0x10, 0⟩, [], [], []⟩ }
    c.Legal ∧ c.dstAddr = c.srcAddr ∧ 1 = (c.length >>> 4).toNat := by
  refine ⟨?_, by decide, by decide⟩
  have h := busyCtl_legal .validating .none none rfl (fun _ => rfl) (by decide)
  exact ⟨h.1, h.2, h.3, h.4, h.5, h.6, h.7, by decide, h.9, h.10, h.11, h.12, by decide, by decide, h.15,
    fun _ => ⟨0, rfl⟩⟩

end Sys2Proof.Tests
end

section
/-! PROOFS. The obligations of spec/00_scope.md: the step that runs a placed operation (O8), and the steps of the agents
that run none (O9). -/

namespace Sys2Proof.Machine

/-! ### The words of an operation (R62 to R72) -/

/-- A block sent in `data[127:0]` is read back from there (R72). -/
theorem dataBlock_blockData (b : Block) : dataBlock (blockData b) = b := by
  ext k hk
  simp [dataBlock, blockData, Vector.get_eq_getElem]

/-- An access word decodes to the operation of the row that covers it. -/
theorem decodeHost_of_find {a : BitVec 8} {r : HostRow} (h : hostRows.find? (fun r => r.covers a) = some r) (d : Word) :
    decodeHost ⟨a, d⟩ = .ok (r.build (accessIndex a) d) := by
  simp [decodeHost, h]

/-- The words of every operation, SET_KEY at any `klen` among them, decode to it. -/
theorem decode_encode (i : Instr) : decode (encode i) = .ok i := by
  cases i
  case rdCtrl | rdStatus | rdErrcode | rdBlkcnt | rdLength | rdSrc | rdDst | rdKeylen => rfl
  case rdKey n | rdIv n | rdRsvd n => fin_cases n <;> rfl
  case wrKey n d | wrIv n d | wrRsvd n d => fin_cases n <;> exact (decodeHost_of_find (by rfl) _).trans (by rfl)
  case coreSetKey | coreClose => rfl
  case coreOpen v => cases v <;> rfl
  case coreEnc b => exact congrArg (fun b => Except.ok (Instr.coreEnc b)) (dataBlock_blockData b)
  case coreDec b => exact congrArg (fun b => Except.ok (Instr.coreDec b)) (dataBlock_blockData b)
  all_goals exact (decodeHost_of_find (by rfl) _).trans (by rfl)

/-- The two fields of byte 32 of a request's number, `variant` above `klen` (R65). -/
theorem variant_klen_of_byte : ∀ (variant : BitVec 2) (klen : BitVec 6),
    (variant ++ klen : Byte).extractLsb' 6 2 = variant ∧ (variant ++ klen : Byte).extractLsb' 0 6 = klen := by
  decide

/-- The field of byte 33 of a request's number, `op` (R65). -/
theorem op_of_byte : ∀ op : BitVec 3, (op.setWidth 8).extractLsb' 0 3 = op := by
  decide

/-- Every field of a request is read back from its 267-bit number (R65). -/
theorem coreWord_ofNat_toNat (q : CoreWord) : CoreWord.ofNat q.toNat = q := by
  obtain ⟨op, variant, klen, data⟩ := q
  have hbytes := unpackBytes_packBytes (data.toList ++ [variant ++ klen, op.setWidth 8])
  have hlen : (data.toList ++ [variant ++ klen, op.setWidth 8]).length = 34 := by simp
  rw [hlen] at hbytes
  simp only [CoreWord.ofNat, CoreWord.toNat, hbytes, CoreWord.mk.injEq]
  obtain ⟨hvariant, hklen⟩ := variant_klen_of_byte variant klen
  refine ⟨by simpa using op_of_byte op, by simpa using hvariant, by simpa using hklen, ?_⟩
  ext k hk : 1
  simp [List.getElem?_append_left]

/-- The access word and the write data are read back from their 40-bit number. -/
theorem hostWord_ofNat_toNat (w : HostWord) : HostWord.ofNat w.toNat = w := by
  obtain ⟨access, data⟩ := w
  have ha := access.isLt
  have hd := data.isLt
  simp only [HostWord.ofNat, HostWord.toNat, HostWord.mk.injEq]
  exact ⟨BitVec.eq_of_toNat_eq (by rw [BitVec.toNat_ofNat]; omega),
    BitVec.eq_of_toNat_eq (by rw [BitVec.toNat_ofNat]; omega)⟩

/-- The words of either port are read back from their number and length. -/
theorem ofTableWord_toNat (w : Encoded) : Encoded.ofTableWord w.nbits w.toNat = w := by
  cases w with
  | host w => exact congrArg Encoded.host (hostWord_ofNat_toNat w)
  | core q => exact congrArg Encoded.core (coreWord_ofNat_toNat q)

/-! ### A host access that runs an operation (R63, R120) -/

/-- Every row of R64 fixes `A[1:0] = 00`, so an access word that decodes has it (R63). -/
theorem decodeHost_aligned {w : HostWord} {i : Instr} (h : decodeHost w = .ok i) :
    w.access.extractLsb' 0 2 = 0#2 := by
  obtain ⟨r, hr⟩ : ∃ r, hostRows.find? (fun r => r.covers w.access) = some r := by
    unfold decodeHost at h
    split at h
    · exact ⟨_, ‹_›⟩
    · cases h
  have hrows : ∀ r ∈ hostRows, r.mask.extractLsb' 0 2 = BitVec.allOnes 2 ∧ r.pattern.extractLsb' 0 2 = 0#2 := by
    decide
  obtain ⟨hmask, hpattern⟩ := hrows r (List.mem_of_find?_eq_some hr)
  have hcovers := List.find?_some hr
  rw [HostRow.covers, beq_iff_eq] at hcovers
  have hbits := congrArg (BitVec.extractLsb' 0 2) hcovers
  rwa [BitVec.extractLsb'_and, hmask, hpattern, BitVec.and_allOnes] at hbits

/-- An access of four bytes at a multiple of 4 in the window runs the operation its access word decodes to. -/
theorem registerAccess_of_decodeHost {acc : HostAccess} {s : State} {i : Instr} (hsize : acc.size = 4)
    (haligned : (s.ctl.offsetOf acc.addr).extractLsb' 0 2 = 0#2)
    (hlast : (s.ctl.offsetOf acc.addr).toNat ≤ Config.lastOffset)
    (hi : decodeHost (hostWordOf acc.write (s.ctl.offsetOf acc.addr) acc.data) = .ok i) :
    registerAccess acc s = exec i s := by
  simp [registerAccess, accessRefused, hsize, haligned, Nat.not_lt.mpr hlast, hi]

/-- The selected controller is asked first (notes/assumptions/5). -/
theorem hostStep_of_inWindow {acc : HostAccess} {s : State} (h : s.ctl.inWindow acc.addr = true) :
    hostStep acc s = registerAccess acc s := by
  simp [hostStep, State.instanceAt, h]

/-- The access that carries a word goes to the offset in the word. -/
theorem offsetOf_accessOf (w : HostWord) (s : State) :
    s.ctl.offsetOf (accessOf w s).addr = (w.access.extractLsb' 0 7).setWidth 32 := by
  simp [Ctl.offsetOf, accessOf]

/-- The access that carries a word carries its `W` bit, its offset and its data. -/
theorem hostWordOf_accessOf (w : HostWord) (s : State) :
    hostWordOf (accessOf w s).write (s.ctl.offsetOf (accessOf w s).addr) (accessOf w s).data = w := by
  have hword : ∀ a : BitVec 8,
      accessWord (a.getLsbD 7) (((a.extractLsb' 0 7).setWidth 32).extractLsb' 0 7) = a := by
    decide
  rw [offsetOf_accessOf]
  simp only [hostWordOf, accessOf, hword]

/-- The offset in an access word with `A[1:0] = 00` is a multiple of 4, at most that of the last register. -/
theorem access_offset_of_aligned : ∀ a : BitVec 8, a.extractLsb' 0 2 = 0#2 →
    ((a.extractLsb' 0 7).setWidth 32).extractLsb' 0 2 = 0#2 ∧
    ((a.extractLsb' 0 7).setWidth 32).toNat ≤ Config.lastOffset := by
  decide

/-- The access that carries a word runs the operation it decodes to. -/
theorem hostStep_accessOf {w : HostWord} {i : Instr} (s : State) (hi : decodeHost w = .ok i) :
    hostStep (accessOf w s) s = exec i s := by
  obtain ⟨haligned, hlast⟩ := access_offset_of_aligned w.access (decodeHost_aligned hi)
  rw [← offsetOf_accessOf w s] at haligned hlast
  have hwindow : s.ctl.inWindow (accessOf w s).addr = true :=
    decide_eq_true (Nat.lt_of_le_of_lt hlast (by decide))
  rw [hostStep_of_inWindow hwindow]
  exact registerAccess_of_decodeHost rfl haligned hlast (by rwa [hostWordOf_accessOf])

/-! ### The step of the machine -/

/-- The step of a machine with a schedule is the scheduled agent's. -/
theorem step_of_inbox {s : State} {e : Event} {rest : List Event} (h : s.inbox = e :: rest) :
    step s = runEvent e { s with inbox := rest } := by
  rw [step, h]

/-- A word placed on the host port is the next host access (R120). -/
theorem step_placeHost {w : HostWord} {i : Instr} (s : State) (hi : decodeHost w = .ok i) :
    step (s.placeHost w) = exec i s :=
  hostStep_accessOf s hi

/-- A core that has a request to answer runs the operation the request decodes to (R108). -/
theorem coreStep_of_decodeCore {draw : CoreDraw} {s : State} {q : CoreWord} {i : Instr}
    (hpending : s.ctl.corePending = true) (hreq : s.ctl.coreReq = some q) (hresp : s.ctl.coreResp = none)
    (hi : decodeCore q = .ok i) :
    coreStep draw s = exec i (s.mapCtl fun c => { c with draw := draw }) := by
  simp [coreStep, Ctl.coreEnabled, hpending, hreq, hresp, hi]

/-- A request placed on the core port is the one the core answers next (R108). -/
theorem step_placeCore {q : CoreWord} {i : Instr} (s : State) (hi : decodeCore q = .ok i) :
    step (s.placeCore q) =
      exec i { s with ctl := { s.ctl with coreReq := some q, corePending := true, coreResp := none } } :=
  coreStep_of_decodeCore (draw := s.ctl.draw) (s := { s with
    ctl := { s.ctl with coreReq := some q, corePending := true, coreResp := none } }) rfl rfl rfl hi

/-- Settles O8: the placed words are read back from their number, and decode to the operation. -/
theorem placedWordRunsNext : Obligations.PlacedWordRunsNext := by
  intro i s _
  have hi := decode_encode i
  rw [State.withFetchWord, ofTableWord_toNat]
  cases hw : encode i with
  | host w => exact step_placeHost s (by rwa [hw] at hi)
  | core q => exact step_placeCore s (by rwa [hw] at hi)

/-! ### The steps of the other agents (R11, R40, R55, R108, R159) -/

/-- A core with no request pending, or whose answer still stands in the slot, has no move (R35, R108). -/
theorem coreStep_idle {draw : CoreDraw} {s : State}
    (h : s.ctl.corePending = false ∨ s.ctl.coreResp.isSome = true) : coreStep draw s = .next s := by
  have hoff : s.ctl.coreEnabled = false := by
    rcases h with h | h <;> simp [Ctl.coreEnabled, h]
  simp [coreStep, hoff]

/-- A byte of memory after a host store: the stored byte holds `v`, or any value where a transform has written it too
(R55), and every other byte keeps its value. -/
theorem State.hostStore_byteAt {s : State} {a b : Addr} {v any : Byte} (hm : s.mem.wf = true) :
    (s.hostStore a v any).byteAt b =
      if a = b then (if (s.ctl :: s.others).any (·.hasWritten a) = true then any else v) else s.byteAt b := by
  simp only [State.byteAt, State.hostStore, memGet_memPut hm, BitVec.toNat_inj]

/-- Every controller takes a host store as a write by another agent. -/
theorem State.hostStore_ctls (s : State) (a : Addr) (v any : Byte) :
    (s.hostStore a v any).ctl :: (s.hostStore a v any).others = (s.ctl :: s.others).map (Ctl.markForeign a) :=
  rfl

/-- A write by another agent changes nothing but the note of foreign bytes. -/
theorem Ctl.markForeign_eq (a : Addr) (c : Ctl) :
    c.markForeign a = { c with race := { c.race with foreign := (c.markForeign a).race.foreign } } := by
  unfold Ctl.markForeign
  split <;> rfl

/-- The running transform covers a byte: the controller is BUSY, and the byte lies in one of the open window's ranges. -/
theorem Ctl.running_covers_iff (c : Ctl) (a : Addr) :
    c.running.any (·.covers a) = true ↔ c.busy = true ∧ ∃ w, c.race.window = some w ∧
      ((a - w.src).toNat < w.bytes ∨ (a - w.dst).toNat < w.bytes) := by
  unfold Ctl.running
  split
  · next hbusy => simp [hbusy, BufferWindow.covers, inRange]
  · next hbusy => simp [hbusy]

/-- Settles O9: one fact for each agent's step, and for a host store what it does to memory and to each controller. -/
theorem otherAgentsSteps : Obligations.OtherAgentsSteps := by
  intro s rest
  refine ⟨?empty, ?controller, ?load, ?store, ?platform, ?core, ?select, ?selectNone⟩
  case empty => exact fun h => by rw [step, h]
  case controller => exact fun any h => step_of_inbox h
  case load => exact fun a any h => step_of_inbox h
  case store =>
    intro a v any h hm
    have hm' : ({ s with inbox := rest } : State).mem.wf = true := hm
    refine ⟨_, step_of_inbox h, ?written, ?kept, List.length_map _, rfl, rfl, rfl, ?noted⟩
    case written => exact (State.hostStore_byteAt hm').trans (if_pos rfl)
    case kept => exact fun b hb => (State.hostStore_byteAt hm').trans (if_neg hb.symm)
    case noted =>
      intro k c d hc hd
      rw [State.hostStore_ctls, List.getElem?_map, hc] at hd
      cases hd
      exact ⟨Ctl.markForeign_eq a c, fun b => by rw [Ctl.mem_markForeign, Ctl.running_covers_iff]⟩
  case platform => exact fun deny h => step_of_inbox h
  case core => exact fun draw h hidle => (step_of_inbox h).trans (coreStep_idle hidle)
  case select =>
    exact fun k c h hc => (step_of_inbox h).trans (congrArg Host.Outcome.next (State.select_some hc))
  case selectNone =>
    exact fun k h hk => (step_of_inbox h).trans (congrArg Host.Outcome.next (State.select_none hk))

end Sys2Proof.Machine
end

section
/-! PROOFS. The obligations of spec/10_state.md: every step of every agent keeps every controller legal (O43). -/

namespace Sys2Proof.Machine

/-! ### What a legal controller has on its core port (R31, R34, R35) -/

/-- Nothing stands on the core port: no request is pending, held by the core or answered (R35). -/
structure Ctl.PortIdle (c : Ctl) : Prop where
  pending : c.corePending = false
  request : c.coreReq = none
  slot : c.coreResp = none

/-- A legal controller that does not wait has nothing on its core port. -/
theorem Ctl.Legal.portIdle {c : Ctl} (h : c.Legal) (hw : c.ph.waiting = false) : c.PortIdle := by
  have hpending : c.corePending = false := h.pending.trans hw
  exact ⟨hpending, by simpa [hpending] using h.request, h.slot hpending⟩

/-- Once the answer stands in the slot the core holds no request (R35). -/
theorem Ctl.Legal.coreReq_of_answered {c : Ctl} {r : CoreResp} (h : c.Legal) (hr : c.coreResp = some r) :
    c.coreReq = none := by
  simpa [hr] using h.request

/-- Consuming changes nothing when nothing is pending. -/
theorem Ctl.PortIdle.consume_eq {c : Ctl} (h : c.PortIdle) : c.consume = c := by
  obtain ⟨hpending, -, hslot⟩ := h
  cases c
  simp_all [Ctl.consume]

/-- A controller that is not BUSY is at the phase NONE (R31). -/
theorem Ctl.Legal.ph_of_not_busy {c : Ctl} (h : c.Legal) (hb : c.busy = false) : c.ph = .none := by
  have hphase := h.phase
  cases hq : c.seq <;> simp_all [Ctl.busy, SeqState.busy, phaseLegal]

/-- A legal controller that is not BUSY has nothing on its core port. -/
theorem Ctl.Legal.portIdle_of_not_busy {c : Ctl} (h : c.Legal) (hb : c.busy = false) : c.PortIdle :=
  h.portIdle (by rw [h.ph_of_not_busy hb]; rfl)

/-- The oracle is closed while the controller is not BUSY (R34). -/
theorem Ctl.Legal.oracle_of_not_busy {c : Ctl} (h : c.Legal) (hb : c.busy = false) : c.oracleOpen = false := by
  rw [h.oracle]
  cases hq : c.seq <;> simp_all [Ctl.busy, SeqState.busy, oracleExpected]

/-- A state in which a validated configuration is in use is BUSY. -/
theorem busy_of_validated {q : SeqState} (h : q.validated = true) : q.busy = true := by
  cases q <;> simp_all [SeqState.validated, SeqState.busy]

/-- The oracle is open only where a validated configuration is in use (R34, R90). -/
theorem validated_of_oracleExpected {q : SeqState} {p : Phase} (h : oracleExpected q p = true) :
    q.validated = true := by
  cases q <;> simp_all [SeqState.validated, oracleExpected]

/-! ### Updates that leave the sequencer where it is -/

theorem Ctl.Legal.refreshIrq {c : Ctl} (h : c.Legal) : c.refreshIrq.Legal :=
  { h with irqLine := rfl }

theorem Ctl.Legal.answer {c : Ctl} (h : c.Legal) (r : HostResponse) : (c.answer r).Legal :=
  { h with irqLine := rfl }

/-- The note of a racing write is no part of what is legal. -/
theorem Ctl.Legal.markForeign {c : Ctl} (h : c.Legal) (a : Addr) : (c.markForeign a).Legal := by
  rw [Ctl.markForeign_eq]
  exact { h with }

theorem Ctl.Legal.noteWritten {c : Ctl} (h : c.Legal) (n : Nat) : (c.noteWritten n).Legal :=
  { h with
    openWindow := fun hb => by
      obtain ⟨w, hw⟩ := h.openWindow hb
      exact ⟨w + n, by rw [Ctl.noteWritten_race, hw]; rfl⟩ }

/-- The acquire point closes the window only with `DONE = 1`, hence never while BUSY (R54, R125). -/
theorem Ctl.Legal.acquire {c : Ctl} (h : c.Legal) : c.acquire.Legal := by
  unfold Ctl.acquire
  split
  · next hdone =>
    exact { h with openWindow := fun hb => absurd (h.notDone hb) (by simp [hdone]) }
  · exact h

/-! ### Host operations and core answers -/

/-- While not BUSY the configuration registers may hold anything: no clause reads them there. -/
theorem Ctl.Legal.reconfigured {c : Ctl} (h : c.Legal) (hb : c.busy = false) (dir ie : Bool)
    (length src dst keyLen : Word) (key iv : Vector Word 8) (r : HostResponse) :
    (Ctl.answer r { c with
      dir := dir, ie := ie, length := length, srcAddr := src, dstAddr := dst, keyLen := keyLen, key := key
      iv := iv }).Legal := by
  have hidle : c.PortIdle := h.portIdle_of_not_busy hb
  have hseq : c.seq.busy = false := hb
  exact { h with
    irqLine := rfl
    request := by simp [hidle.pending, hidle.request]
    config := fun hv => absurd (busy_of_validated hv) (by simpa using hseq)
    countBlock := fun hq => by cases hseq.symm.trans (congrArg SeqState.busy hq)
    countDone := fun hq => by cases hseq.symm.trans (congrArg SeqState.busy hq)
    openWindow := fun hbusy => by cases hseq.symm.trans hbusy }

/-- The acceptance of START from a legal controller that is not BUSY (R89). -/
theorem Ctl.Legal.acceptStart {c : Ctl} (h : c.Legal) (hb : c.busy = false) (ie dir : Bool)
    (rivals : List BufferWindow) (r : HostResponse) :
    ((Ctl.acceptStart rivals { c with ie := ie, dir := dir }).answer r).Legal where
  phase := rfl
  irqLine := rfl
  notDone := fun _ => rfl
  oracle := h.oracle_of_not_busy hb
  pending := (h.portIdle_of_not_busy hb).pending
  slot := h.slot
  request := by
    have hidle : c.PortIdle := h.portIdle_of_not_busy hb
    simp [hidle.pending, hidle.request]
  config := nofun
  cleanErr := fun _ => rfl
  failedErr := nofun
  closingErr := nofun
  countStart := fun _ => rfl
  countBlock := nofun
  countDone := nofun
  countMax := by simp
  openWindow := fun _ => ⟨0, rfl⟩

theorem Ctl.Configures.legal {c d : Ctl} (hd : c.Configures d) (h : c.Legal) (hb : c.busy = false)
    (r : HostResponse) : (d.answer r).Legal := by
  cases hd with
  | start ie dir rivals => exact h.acceptStart hb ie dir rivals r
  | control ie dir => exact h.reconfigured hb dir ie _ _ _ _ _ _ r
  | length d => exact h.reconfigured hb _ _ d _ _ _ _ _ r
  | src d => exact h.reconfigured hb _ _ _ d _ _ _ _ r
  | dst d => exact h.reconfigured hb _ _ _ _ d _ _ _ r
  | keyLen d => exact h.reconfigured hb _ _ _ _ _ d _ _ r
  | key k => exact h.reconfigured hb _ _ _ _ _ _ k _ r
  | iv v => exact h.reconfigured hb _ _ _ _ _ _ _ v r

/-- Every host operation keeps a controller legal. -/
theorem Ctl.Served.legal {c d : Ctl} {write : Bool} (hd : c.Served write d) (h : c.Legal) : d.Legal := by
  cases hd with
  | read r => exact h.answer r
  | acquire r => exact h.acquire.answer r
  | dropped => exact h.answer .ack
  | flags d => exact { h with irqLine := rfl, notDone := fun hb => by simp [h.notDone hb] }
  | ignored hb => exact { h with irqLine := rfl }
  | configured hb hc => exact hc.legal h hb .ack

/-- The answer to the pending request keeps a controller legal, whatever the core holds (R108). -/
theorem Ctl.Legal.coreAnswer {c : Ctl} (h : c.Legal) (hpending : c.corePending = true) (cv : Option Variant)
    (ck : Option (List Byte)) (draw : CoreDraw) (ok : Bool) (data : Block) :
    (Ctl.coreAnswer ok data { c with cv := cv, ck := ck, draw := draw }).refreshIrq.Legal :=
  { h with
    irqLine := rfl
    slot := fun hoff => absurd hpending (by simpa using hoff)
    request := by simp }

/-! ### Controller steps (R88) -/

/-- A step that sends the request its wait phase awaits (R91, R93, R96, R100). -/
theorem Ctl.Legal.sendRequest {c : Ctl} {q : CoreWord} {p : Phase} (h : c.Legal) (hw : c.ph.waiting = false)
    (hphase : phaseLegal c.seq p = true) (hwait : p.waiting = true)
    (horacle : oracleExpected c.seq p = oracleExpected c.seq c.ph)
    (hq : Ctl.awaitedRequest { c with ph := p } = some q) : (c.sendRequest q p).refreshIrq.Legal :=
  { h with
    phase := hphase
    irqLine := rfl
    oracle := h.oracle.trans horacle.symm
    pending := hwait.symm
    slot := nofun
    request := by
      have hawaited : (c.sendRequest q p).refreshIrq.awaitedRequest = some q := hq
      simp [(h.portIdle hw).slot, hawaited] }

/-- The transform ends with the oracle closed: in COMPLETED without an error, in FAILED with one (R99, R101). -/
theorem Ctl.Legal.ended {c : Ctl} (h : c.Legal) (hreq : c.coreReq = none) {q : SeqState} {e : ErrCode} {isOpen : Bool}
    (hopen : isOpen = false) (hend : q = .completed ∧ e = .none ∨ q = .failed ∧ e ≠ .none)
    (hcount : e.beforeBlocks = true → c.blkcnt = 0#32) (iv : Vector Word 8) :
    Ctl.Legal (Ctl.refreshIrq { c.consume with
      err := e, oracleOpen := isOpen, iv := iv, seq := q, ph := .none, done := true }) := by
  have hclean : q.clean = true → e = .none := by
    rcases hend with ⟨rfl, he⟩ | ⟨rfl, -⟩
    exacts [fun _ => he, nofun]
  have hfailed : q = .failed → e ≠ .none := by
    rcases hend with ⟨rfl, -⟩ | ⟨rfl, he⟩
    exacts [nofun, fun _ => he]
  have hq : q = .completed ∨ q = .failed := hend.imp And.left And.left
  subst hopen
  rcases hq with rfl | rfl <;>
  exact { h with
    phase := rfl
    irqLine := rfl
    notDone := nofun
    oracle := rfl
    pending := rfl
    slot := fun _ => rfl
    request := hreq
    config := nofun
    cleanErr := hclean
    failedErr := hfailed
    closingErr := nofun
    countStart := fun hs => hs.elim nofun fun hs => hs.elim nofun hcount
    countBlock := nofun
    countDone := nofun
    openWindow := nofun }

/-- The failure path of a BUSY controller, after any answer is consumed: the core is released first when it is open, and
the transform ends at once when it is not (R99). -/
theorem Ctl.Legal.fail {c : Ctl} {e : ErrCode} (h : c.Legal) (hb : c.busy = true) (hreq : c.coreReq = none)
    (hne : e ≠ .none) (hopen : c.oracleOpen = true → e.afterOpen = true)
    (hcount : e.beforeBlocks = true → c.blkcnt = 0#32) : (c.consume.fail e).refreshIrq.Legal := by
  unfold Ctl.fail
  split
  · next ho =>
    exact { h with
      phase := rfl
      irqLine := rfl
      notDone := fun _ => h.notDone hb
      oracle := ho
      pending := rfl
      slot := fun _ => rfl
      request := hreq
      config := fun _ => h.config (validated_of_oracleExpected (h.oracle ▸ ho))
      cleanErr := nofun
      failedErr := nofun
      closingErr := fun _ => hopen ho
      countStart := fun hs => hs.elim nofun fun hs => hs.elim nofun hcount
      countBlock := nofun
      countDone := fun _ he => absurd he hne
      openWindow := fun _ => h.openWindow hb }
  · next hclosed =>
    exact h.ended hreq (Bool.eq_false_of_not_eq_true hclosed) (.inr ⟨rfl, hne⟩) hcount c.iv

/-- The validation step (R90). -/
theorem Ctl.Legal.validate {c : Ctl} (h : c.Legal) (hq : c.seq = .validating) (hp : c.ph = .none) :
    c.validate.refreshIrq.Legal := by
  have hb : c.busy = true := congrArg SeqState.busy hq
  have hidle : c.PortIdle := h.portIdle (by rw [hp]; rfl)
  have hclosed : c.oracleOpen = false := by rw [h.oracle, hq]; rfl
  have hcount : c.blkcnt = 0#32 := h.countStart (.inl hq)
  have hfail : ∀ e : ErrCode, e ≠ .none → (c.fail e).refreshIrq.Legal := by
    intro e hne
    have hlegal := h.fail hb hidle.request hne (fun hopen => by cases hclosed.symm.trans hopen) fun _ => hcount
    rwa [hidle.consume_eq] at hlegal
  unfold Ctl.validate
  split
  · exact hfail _ nofun
  · next hlength =>
    split
    · exact hfail _ nofun
    · next hkeyLen =>
      have hvalid : c.lengthValid = true ∧ c.keyLenValid = true :=
        ⟨by simpa using hlength, by simpa using hkeyLen⟩
      exact { h with
        phase := rfl
        irqLine := rfl
        notDone := fun _ => h.notDone hb
        oracle := hclosed
        pending := hidle.pending
        slot := h.slot
        request := by simp [hidle.pending, hidle.request]
        config := fun _ => hvalid
        cleanErr := fun _ => h.cleanErr (by rw [hq]; rfl)
        failedErr := nofun
        closingErr := nofun
        countStart := fun _ => hcount
        countBlock := nofun
        countDone := nofun
        openWindow := fun _ => h.openWindow hb }

/-- The block count of a transform is at most 0x0FFFFFFF (R20, R69). -/
theorem Ctl.nBlocks_le (c : Ctl) : c.nBlocks.toNat ≤ 0x0FFFFFFF := by
  have hlength := c.length.isLt
  rw [Ctl.nBlocks, BitVec.toNat_ushiftRight, Nat.shiftRight_eq_div_pow]
  omega

/-- The oracle is open only while BUSY, with a valid configuration (R34, R90). -/
theorem Ctl.Legal.of_open {c : Ctl} (h : c.Legal) (hopen : c.oracleOpen = true) :
    c.busy = true ∧ c.lengthValid = true ∧ c.keyLenValid = true := by
  have hvalid : c.seq.validated = true := validated_of_oracleExpected (h.oracle ▸ hopen)
  exact ⟨busy_of_validated hvalid, h.config hvalid⟩

section Blocks
variable {c : Ctl} (h : c.Legal) (hclean : c.seq.clean = true) (hopen : c.oracleOpen = true)
  (hreq : c.coreReq = none) (wx wy : Block) {count : Word}
include h hclean hopen hreq

/-- The core is released when no block is left to process (R94, R98). -/
theorem Ctl.Legal.release (hcount : count = c.nBlocks) :
    Ctl.Legal (Ctl.refreshIrq { c.consume with
      wx := wx, wy := wy, blkcnt := count, seq := .closing, ph := .close }) := by
  obtain ⟨hb, hvalid⟩ := h.of_open hopen
  have herr : c.err = .none := h.cleanErr hclean
  exact { h with
    phase := rfl
    irqLine := rfl
    notDone := fun _ => h.notDone hb
    oracle := hopen
    pending := rfl
    slot := fun _ => rfl
    request := hreq
    config := fun _ => hvalid
    cleanErr := nofun
    failedErr := nofun
    closingErr := fun _ => congrArg ErrCode.afterOpen herr
    countStart := fun hs => hs.elim nofun fun hs => hs.elim nofun fun he => by
      cases (congrArg ErrCode.beforeBlocks herr).symm.trans he
    countBlock := nofun
    countDone := fun _ _ => hcount
    countMax := hcount ▸ c.nBlocks_le
    openWindow := fun _ => h.openWindow hb }

/-- The next block is fetched while one is left (R94, R98). -/
theorem Ctl.Legal.nextBlock {q : SeqState} (hq : q = .processing) (hcount : count.toNat < c.nBlocks.toNat) :
    Ctl.Legal (Ctl.refreshIrq { c.consume with
      wx := wx, wy := wy, blkcnt := count, seq := q, ph := .fetch }) := by
  subst hq
  obtain ⟨hb, hvalid⟩ := h.of_open hopen
  have herr : c.err = .none := h.cleanErr hclean
  exact { h with
    phase := rfl
    irqLine := rfl
    notDone := fun _ => h.notDone hb
    oracle := hopen
    pending := rfl
    slot := fun _ => rfl
    request := hreq
    config := fun _ => hvalid
    cleanErr := fun _ => herr
    failedErr := nofun
    closingErr := nofun
    countStart := fun hs => hs.elim nofun fun hs => hs.elim nofun fun he => by
      cases (congrArg ErrCode.beforeBlocks herr).symm.trans he
    countBlock := fun _ => hcount
    countDone := nofun
    countMax := hcount.le.trans c.nBlocks_le
    openWindow := fun _ => h.openWindow hb }

end Blocks

/-- The OPEN response is taken (R92). -/
theorem Ctl.Legal.takeOpen {c : Ctl} {r : CoreResp} (h : c.Legal) (hq : c.seq = .setup)
    (hr : c.coreResp = some r) : (c.takeOpen r).refreshIrq.Legal := by
  unfold Ctl.takeOpen
  split
  · exact { h with
      phase := by rw [Ctl.refreshIrq_seq, Ctl.consume_seq, hq]; rfl
      irqLine := rfl
      oracle := by rw [Ctl.refreshIrq_seq, Ctl.consume_seq, hq]; rfl
      pending := rfl
      slot := fun _ => rfl
      request := h.coreReq_of_answered hr }
  · exact h.fail (congrArg SeqState.busy hq) (h.coreReq_of_answered hr) nofun (fun _ => rfl)
      fun _ => h.countStart (.inr (.inl hq))

/-- The SET_KEY response is taken (R94). -/
theorem Ctl.Legal.takeSetKey {c : Ctl} {r : CoreResp} (h : c.Legal) (hq : c.seq = .setup) (hp : c.ph = .keyWait)
    (hr : c.coreResp = some r) : (c.takeSetKey r).refreshIrq.Legal := by
  have hreq : c.coreReq = none := h.coreReq_of_answered hr
  have hclean : c.seq.clean = true := by rw [hq]; rfl
  have hopen : c.oracleOpen = true := by rw [h.oracle, hq, hp]; rfl
  have hcount : c.blkcnt = 0#32 := h.countStart (.inr (.inl hq))
  unfold Ctl.takeSetKey
  split
  · exact h.fail (congrArg SeqState.busy hq) hreq nofun (fun _ => rfl) fun _ => hcount
  · split
    · next hzero => exact h.release hclean hopen hreq c.wx c.wy (hcount.trans hzero.symm)
    · next hsome =>
      have hleft : c.blkcnt.toNat < c.nBlocks.toNat := by
        rw [hcount]
        exact Nat.pos_of_ne_zero fun hzero => hsome (BitVec.eq_of_toNat_eq hzero)
      exact h.nextBlock hclean hopen hreq c.wx c.wy rfl hleft

/-- The oracle is open during the per-block loop (R34). -/
theorem Ctl.Legal.open_of_processing {c : Ctl} (h : c.Legal) (hq : c.seq = .processing) : c.oracleOpen = true := by
  rw [h.oracle, hq]
  rfl

/-- The input block has been fetched (R95). -/
theorem Ctl.Legal.fetched {c : Ctl} (h : c.Legal) (hq : c.seq = .processing) (hp : c.ph = .fetch) (b : Block) :
    (Ctl.refreshIrq { c with inBlk := b, ph := .cipher }).Legal := by
  have hidle : c.PortIdle := h.portIdle (by rw [hp]; rfl)
  exact { h with
    phase := by rw [Ctl.refreshIrq_seq, hq]; rfl
    irqLine := rfl
    oracle := by rw [Ctl.refreshIrq_seq, hq]; exact h.open_of_processing hq
    pending := hidle.pending
    request := by simp [hidle.pending, hidle.request] }

/-- The platform refuses a byte of the input or output block (R95, R98, R149). -/
theorem Ctl.Legal.refused {c : Ctl} (h : c.Legal) (hq : c.seq = .processing) (hp : c.ph = .fetch ∨ c.ph = .write)
    (written : Nat) : ((c.fail .memoryAccessFailure).noteWritten written).refreshIrq.Legal := by
  have hidle : c.PortIdle := h.portIdle (by rcases hp with hp | hp <;> rw [hp] <;> rfl)
  have hlegal := h.fail (e := .memoryAccessFailure) (congrArg SeqState.busy hq) hidle.request nofun (fun _ => rfl)
    nofun
  rw [hidle.consume_eq] at hlegal
  exact hlegal.noteWritten written

/-- The cipher response is taken (R97). -/
theorem Ctl.Legal.takeCipher {c : Ctl} {r : CoreResp} (h : c.Legal) (hq : c.seq = .processing)
    (hr : c.coreResp = some r) : (c.takeCipher r).refreshIrq.Legal := by
  unfold Ctl.takeCipher
  split
  · exact h.fail (congrArg SeqState.busy hq) (h.coreReq_of_answered hr) nofun (fun _ => rfl) nofun
  · exact { h with
      phase := by rw [Ctl.refreshIrq_seq, Ctl.consume_seq, hq]; rfl
      irqLine := rfl
      oracle := by rw [Ctl.refreshIrq_seq, Ctl.consume_seq, hq]; exact h.open_of_processing hq
      pending := rfl
      slot := fun _ => rfl
      request := h.coreReq_of_answered hr }

/-- The output block has been written (R98). -/
theorem Ctl.Legal.finishBlock {c : Ctl} (h : c.Legal) (hq : c.seq = .processing) (hp : c.ph = .write) :
    c.finishBlock.refreshIrq.Legal := by
  have hnoted : (c.noteWritten 16).Legal := h.noteWritten 16
  have hidle : (c.noteWritten 16).PortIdle := hnoted.portIdle (by rw [Ctl.noteWritten_ph, hp]; rfl)
  have hclean : (c.noteWritten 16).seq.clean = true := by rw [Ctl.noteWritten_seq, hq]; rfl
  have hopen : (c.noteWritten 16).oracleOpen = true := h.open_of_processing hq
  have hbelow : c.blkcnt.toNat < c.nBlocks.toNat := h.countBlock hq
  unfold Ctl.finishBlock
  rw [← hidle.consume_eq]
  dsimp only
  split
  · next hlast => exact hnoted.release hclean hopen hidle.request _ _ hlast
  · next hmore =>
    have hnext : (c.blkcnt + 1#32).toNat < c.nBlocks.toNat := by
      have hne : (c.blkcnt + 1#32).toNat ≠ c.nBlocks.toNat := fun heq => hmore (BitVec.eq_of_toNat_eq heq)
      have hle := c.nBlocks_le
      rw [BitVec.toNat_add] at hne ⊢
      simp only [BitVec.toNat_ofNat] at hne ⊢
      omega
    exact hnoted.nextBlock hclean hopen hidle.request _ _ hq hnext

/-- A commit changes at most the IV registers (R102). -/
theorem Ctl.commit_eq (c : Ctl) : c.commit = { c with iv := c.commit.iv } := by
  unfold Ctl.commit
  split <;> rfl

/-- The CLOSE response is taken (R101). -/
theorem Ctl.Legal.takeClose {c : Ctl} {r : CoreResp} (h : c.Legal) (hr : c.coreResp = some r) :
    (c.takeClose r).refreshIrq.Legal := by
  have hreq : c.coreReq = none := h.coreReq_of_answered hr
  have hcount : c.err.beforeBlocks = true → c.blkcnt = 0#32 := fun he => h.countStart (.inr (.inr he))
  unfold Ctl.takeClose
  dsimp only
  split
  · next herr =>
    rw [Ctl.commit_eq]
    exact h.ended hreq rfl (.inl ⟨rfl, herr⟩) hcount _
  · next herr => exact h.ended hreq rfl (.inr ⟨rfl, herr⟩) hcount c.iv

/-- Every controller step keeps a controller legal (R88). -/
theorem Ctl.Moves.legal {c d : Ctl} (hd : c.Moves d) (h : c.Legal) : d.refreshIrq.Legal := by
  cases hd with
  | stay _ => exact h.refreshIrq
  | validate hq hp => exact h.validate hq hp
  | issueOpen hq hp =>
    exact h.sendRequest (by rw [hp]; rfl) (by rw [hq]; rfl) rfl (by rw [hq, hp]; rfl) rfl
  | takeOpen r hq hp hr => exact h.takeOpen hq hr
  | issueSetKey hq hp =>
    exact h.sendRequest (by rw [hp]; rfl) (by rw [hq]; rfl) rfl (by rw [hq, hp]; rfl) rfl
  | takeSetKey r hq hp hr => exact h.takeSetKey hq hp hr
  | fetch b hq hp => exact h.fetched hq hp b
  | refused written hq hp => exact h.refused hq hp written
  | issueCipher hq hp =>
    exact h.sendRequest (by rw [hp]; rfl) (by rw [hq]; rfl) rfl (by rw [hq, hp]; rfl) rfl
  | takeCipher r hq hp hr => exact h.takeCipher hq hr
  | finishBlock hq hp => exact h.finishBlock hq hp
  | issueClose hq hp =>
    exact h.sendRequest (by rw [hp]; rfl) (by rw [hq]; rfl) rfl (by rw [hq, hp]; rfl) rfl
  | takeClose r hq hp hr => exact h.takeClose hr

/-- The state after reset is legal, wherever the window lies (R160). -/
theorem Ctl.atReset_legal (base : HostAddr) : (Ctl.atReset base).Legal where
  phase := rfl
  irqLine := rfl
  notDone := fun _ => rfl
  oracle := rfl
  pending := rfl
  slot := fun _ => rfl
  request := rfl
  config := nofun
  cleanErr := fun _ => rfl
  failedErr := nofun
  closingErr := nofun
  countStart := fun _ => rfl
  countBlock := nofun
  countDone := nofun
  countMax := Nat.zero_le _
  openWindow := nofun

/-! ### The machine -/

/-- Controllers that keep legal one by one leave a list of legal controllers. -/
theorem legal_of_forall₂ {cs ds : List Ctl} (h : List.Forall₂ (fun c d => c.Legal → d.Legal) cs ds)
    (hcs : ∀ c ∈ cs, c.Legal) : ∀ d ∈ ds, d.Legal := by
  induction h with
  | nil => exact hcs
  | cons hcd _ ih =>
    rw [List.forall_mem_cons] at hcs ⊢
    exact ⟨hcd hcs.1, ih hcs.2⟩

/-- A legal machine stays so when a legal controller takes the place of one of its others. -/
theorem State.Legal.set_other {s : State} {d : Ctl} (h : s.Legal) (hd : d.Legal) (k : Nat) :
    ∀ c ∈ s.others.set k d, c.Legal := by
  intro c hc
  rcases List.mem_or_eq_of_mem_set hc with hc | rfl
  · exact h.2 c hc
  · exact hd

theorem State.Legal.hostStep {s t : State} {acc : HostAccess} (h : s.Legal) (ht : hostStep acc s = .next t) :
    t.Legal := by
  have hserved : ∀ {c d : Ctl}, c.Legal → c.Served acc.write d ∨ d = c.answer .slaveError → d.Legal := by
    rintro c d hc (hd | rfl)
    · exact hd.legal hc
    · exact hc.answer _
  rcases hostStep_next acc s with ⟨-, d, hd, hnext⟩ | ⟨k, c, d, -, hc, hd, hnext⟩
  · cases hnext.symm.trans ht
    exact ⟨hserved h.1 hd, h.2⟩
  · cases hnext.symm.trans ht
    exact ⟨h.1, h.set_other (hserved (h.2 c (List.mem_of_getElem? hc)) hd) k⟩

theorem State.Legal.controllerStep {s : State} (h : s.Legal) (any : Block) : (s.controllerStep any).Legal := by
  obtain ⟨d, hd, hctl⟩ := s.controllerStep_moves any
  refine ⟨hctl ▸ hd.legal h.1, ?_⟩
  obtain ⟨-, -, -, ⟨-, hothers⟩ | ⟨-, -, hothers⟩⟩ := s.controllerStep_rest any
  · exact hothers ▸ h.2
  · rw [hothers]
    exact legal_of_forall₂ (s.writeBytes_others (fun c d => c.Legal → d.Legal) (fun _ => id)
      (fun a _ _ hcd hc => (hcd hc).markForeign a) _ _ _ _) h.2

theorem State.Legal.coreStep {s t : State} {draw : CoreDraw} (h : s.Legal) (ht : coreStep draw s = .next t) :
    t.Legal := by
  obtain rfl | ⟨q, i, -, hpending, -, hi, hexec⟩ := coreStep_next ht
  · exact h
  · obtain ⟨cv, ck, ok, data, hnext⟩ := exec_core i (s.mapCtl fun c => { c with draw := draw }) (decodeCore_port hi)
    cases hnext.symm.trans hexec
    exact ⟨h.1.coreAnswer hpending cv ck draw ok data, h.2⟩

theorem State.Legal.select {s : State} (h : s.Legal) (k : Nat) : (s.select k).Legal := by
  cases hk : s.others[k]? with
  | none => rwa [State.select_none hk]
  | some c =>
    rw [State.select_some hk]
    exact ⟨h.2 c (List.mem_of_getElem? hk), h.set_other h.1 k⟩

theorem State.Legal.hostStore {s : State} (h : s.Legal) (a : Addr) (v any : Byte) : (s.hostStore a v any).Legal := by
  refine ⟨h.1.markForeign a, fun d hd => ?_⟩
  obtain ⟨c, hc, rfl⟩ := List.mem_map.mp hd
  exact (h.2 c hc).markForeign a

theorem State.Legal.resetStep {s : State} (h : s.Legal) (part : Nat) (any : Block) :
    (s.resetStep part any).Legal := by
  refine ⟨(s.resetStep_frame part any).1 ▸ Ctl.atReset_legal _, ?_⟩
  exact legal_of_forall₂ (s.resetStep_others (fun c d => c.Legal → d.Legal) (fun _ => id)
    (fun a _ _ hcd hc => (hcd hc).markForeign a) part any) h.2

/-- Every agent's step keeps a legal machine legal. -/
theorem State.Legal.runEvent {s t : State} {e : Event} (h : s.Legal) (ht : runEvent e s = .next t) : t.Legal := by
  cases e with
  | host acc => exact h.hostStep ht
  | hostLoad a any => cases ht; exact h
  | hostStore a v any => cases ht; exact h.hostStore a v any
  | controller any => cases ht; exact h.controllerStep any
  | core draw => exact h.coreStep ht
  | platform deny => cases ht; exact h
  | select k => cases ht; exact h.select k
  | reset part any => cases ht; exact h.resetStep part any

/-- Settles O43: by the agent whose step is taken, and for a controller step by the row of R88. -/
theorem stepKeepsLegal : Obligations.StepKeepsLegal := by
  intro s t h ht
  cases hinbox : s.inbox with
  | nil =>
    rw [step, hinbox] at ht
    cases ht
    exact h
  | cons e rest =>
    rw [step_of_inbox hinbox] at ht
    have hrest : State.Legal { s with inbox := rest } := h
    exact hrest.runEvent ht

end Sys2Proof.Machine
end

section
/-! PROOFS. The obligations of spec/10_state.md on single registers and operations: numbers (O13), the IV halves (O33),
the key bytes (O34), the frame of an operation (O22) and the hidden key (O23). -/

namespace Sys2Proof.Machine

/-! ### Numbers of states and codes (R29, R30, R144) -/

/-- Settles O13: each number is read off its table, and BUSY is decided state by state. -/
theorem stateAndCodeNumbers : Obligations.StateAndCodeNumbers := by
  refine ⟨rfl, rfl, rfl, rfl, rfl, rfl, rfl, ?busy, rfl, rfl, rfl, rfl, rfl, rfl⟩
  intro q
  cases q <;> simp [SeqState.busy]

/-! ### Registers and halves (R26, R42, R71) -/

/-- Byte `k` of a word of four bytes is the `k`-th of them (R9). -/
theorem byteOf_wordOfBytes (b0 b1 b2 b3 : Byte) :
    byteOf (wordOfBytes b0 b1 b2 b3) 0 = b0 ∧ byteOf (wordOfBytes b0 b1 b2 b3) 1 = b1 ∧
    byteOf (wordOfBytes b0 b1 b2 b3) 2 = b2 ∧ byteOf (wordOfBytes b0 b1 b2 b3) 3 = b3 := by
  refine ⟨?_, ?_, ?_, ?_⟩ <;>
  · ext j hj
    grind [byteOf, wordOfBytes]

/-- A word is the word of its four bytes (R9). -/
theorem wordOfBytes_byteOf (w : Word) : wordOfBytes (byteOf w 0) (byteOf w 1) (byteOf w 2) (byteOf w 3) = w := by
  ext j hj
  grind [byteOf, wordOfBytes]

/-- The bytes of a block's register word are the block's (R42). -/
theorem byteOf_blockWord (b : Block) (m k : Fin 4) :
    byteOf (blockWord b m) k.val = b.get ⟨4 * m.val + k.val, by omega⟩ := by
  obtain ⟨h0, h1, h2, h3⟩ := byteOf_wordOfBytes (b.get ⟨4 * m.val, by omega⟩) (b.get ⟨4 * m.val + 1, by omega⟩)
    (b.get ⟨4 * m.val + 2, by omega⟩) (b.get ⟨4 * m.val + 3, by omega⟩)
  match k with
  | 0 => exact h0
  | 1 => exact h1
  | 2 => exact h2
  | 3 => exact h3

/-- Bytes 0 to 15 of the registers made of two halves are the low half (R42). -/
theorem lowHalf_halvesToRegs (low high : Block) : lowHalf (halvesToRegs low high) = low := by
  ext k hk : 1
  have hword : k / 4 < 4 := by omega
  have hbyte := byteOf_blockWord low ⟨k / 4, hword⟩ ⟨k % 4, by omega⟩
  simp only [Nat.div_add_mod] at hbyte
  simpa [lowHalf, registerByte, halvesToRegs, Vector.get_eq_getElem, hword] using hbyte

/-- Bytes 16 to 31 of the registers made of two halves are the high half (R42). -/
theorem highHalf_halvesToRegs (low high : Block) : highHalf (halvesToRegs low high) = high := by
  ext k hk : 1
  have hword : (16 + k) / 4 - 4 = k / 4 := by omega
  have hindex : (16 + k) % 4 = k % 4 := by omega
  have habove : ¬ (16 + k) / 4 < 4 := by omega
  have hbyte := byteOf_blockWord high ⟨k / 4, by omega⟩ ⟨k % 4, by omega⟩
  simp only [Nat.div_add_mod] at hbyte
  simpa [highHalf, registerByte, halvesToRegs, Vector.get_eq_getElem, hword, hindex, habove] using hbyte

theorem lowHalf_get (regs : Vector Word 8) (k : Fin 16) :
    (lowHalf regs).get k = registerByte regs ⟨k.val, by omega⟩ := by
  simp [lowHalf, Vector.get_eq_getElem]

theorem highHalf_get (regs : Vector Word 8) (k : Fin 16) :
    (highHalf regs).get k = registerByte regs ⟨16 + k.val, by omega⟩ := by
  simp [highHalf, Vector.get_eq_getElem]

/-- The bytes of register `w` are the four from `4w` (R42). -/
theorem registerByte_of_word (regs : Vector Word 8) (w : Fin 8) (j : Fin 4) :
    registerByte regs ⟨4 * w.val + j.val, by omega⟩ = byteOf (regs.get w) j.val := by
  have hword : (4 * w.val + j.val) / 4 = w.val := by omega
  have hbyte : (4 * w.val + j.val) % 4 = j.val := by omega
  simp only [registerByte, hword, hbyte]

/-- A block whose four bytes from `4m` are a word's has that word there (R42). -/
theorem blockWord_of_bytes {b : Block} {m : Fin 4} {w : Word}
    (h : ∀ j : Fin 4, b.get ⟨4 * m.val + j.val, by omega⟩ = byteOf w j.val) : blockWord b m = w := by
  have h0 : b.get ⟨4 * m.val, by omega⟩ = byteOf w 0 := h 0
  have h1 : b.get ⟨4 * m.val + 1, by omega⟩ = byteOf w 1 := h 1
  have h2 : b.get ⟨4 * m.val + 2, by omega⟩ = byteOf w 2 := h 2
  have h3 : b.get ⟨4 * m.val + 3, by omega⟩ = byteOf w 3 := h 3
  rw [blockWord, h0, h1, h2, h3, wordOfBytes_byteOf]

/-- The registers made of the two halves of a register file are that file (R26). -/
theorem halvesToRegs_halves (regs : Vector Word 8) : halvesToRegs (lowHalf regs) (highHalf regs) = regs := by
  ext w hw : 1
  rw [halvesToRegs, Vector.getElem_ofFn, ← Vector.get_eq_getElem (i := ⟨w, hw⟩)]
  split
  · refine blockWord_of_bytes fun j => ?_
    rw [lowHalf_get, ← registerByte_of_word]
  · next hhigh =>
    refine blockWord_of_bytes fun j => ?_
    rw [highHalf_get, ← registerByte_of_word]
    exact congrArg (registerByte regs) (Fin.ext (by simp only at hhigh ⊢; omega))

/-- Settles O33: the two directions, then byte by byte. -/
theorem ivRegistersHoldTheHalves : Obligations.IvRegistersHoldTheHalves :=
  ⟨fun low high => ⟨lowHalf_halvesToRegs low high, highHalf_halvesToRegs low high⟩, halvesToRegs_halves,
    fun regs k => ⟨lowHalf_get regs k, highHalf_get regs k⟩,
    fun c k => ⟨lowHalf_get c.iv k, highHalf_get c.iv k⟩⟩

/-! ### The key bytes that reach the core (R25, R70) -/

/-- Register files that agree on their first `n` bytes have the same first `n` bytes. -/
theorem registerBytes_take_congr {key key' : Vector Word 8} {n : Nat}
    (h : ∀ j : Fin 32, j.val < n → registerByte key j = registerByte key' j) :
    (registerBytes key).take n = (registerBytes key').take n := by
  apply List.ext_getElem
  · simp
  · intro j hj _
    simp only [List.length_take, registerBytes_length] at hj
    simpa only [registerBytes, List.getElem_take, List.getElem_ofFn] using h ⟨j, by omega⟩ (by simp only; omega)

/-- Settles O34: the request carries the first `KEY_LEN` key bytes and nothing else of the key registers. -/
theorem onlyKeyLenBytesReachTheCore : Obligations.OnlyKeyLenBytesReachTheCore := by
  intro c key hagree
  exact congrArg (fun bytes => some (setKeyRequest bytes)) (registerBytes_take_congr hagree)

/-! ### What no operation changes (R15, R18 to R20, R28, R32, R33, R40) -/

/-- What no host operation and no core answer changes of its controller. -/
structure Ctl.LatchesKept (c d : Ctl) : Prop where
  regBase : d.regBase = c.regBase
  inBlk : d.inBlk = c.inBlk
  outBlk : d.outBlk = c.outBlk
  oracleOpen : d.oracleOpen = c.oracleOpen
  corePending : d.corePending = c.corePending
  draw : d.draw = c.draw

/-- What only a `CTRL` write changes. -/
structure Ctl.PositionKept (c d : Ctl) : Prop where
  seq : d.seq = c.seq
  ph : d.ph = c.ph
  wx : d.wx = c.wx
  wy : d.wy = c.wy
  err : d.err = c.err
  blkcnt : d.blkcnt = c.blkcnt
  dir : d.dir = c.dir
  ie : d.ie = c.ie

theorem Ctl.Served.latchesKept {c d : Ctl} {write : Bool} (h : c.Served write d) : c.LatchesKept d := by
  cases h with
  | acquire r => constructor <;> simp
  | configured hb hd => cases hd <;> exact ⟨rfl, rfl, rfl, rfl, rfl, rfl⟩
  | read | dropped | flags | ignored => exact ⟨rfl, rfl, rfl, rfl, rfl, rfl⟩

/-- Every operation changes its own controller alone, and keeps its latches. -/
theorem exec_latchesKept (i : Instr) (s : State) :
    ∃ d, s.ctl.LatchesKept d ∧ exec i s = .next (s.mapCtl fun _ => d) := by
  cases hport : onHostPort i
  · obtain ⟨cv, ck, ok, data, hnext⟩ := exec_core i s hport
    exact ⟨(Ctl.coreAnswer ok data { s.ctl with cv := cv, ck := ck }).refreshIrq,
      ⟨rfl, rfl, rfl, rfl, rfl, rfl⟩, hnext⟩
  · obtain ⟨d, hd, hnext⟩ := exec_host i s hport
    exact ⟨d, hd.latchesKept, hnext⟩

/-- A configuration write keeps the sequencer's position when its effect does. -/
theorem Ctl.configWrite_positionKept {c : Ctl} {f : Ctl → Ctl} (h : c.PositionKept (f c)) :
    c.PositionKept (c.configWrite f) := by
  unfold Ctl.configWrite
  split
  · exact ⟨rfl, rfl, rfl, rfl, rfl, rfl, rfl, rfl⟩
  · exact h

theorem Ctl.PositionKept.answer {c d : Ctl} (h : c.PositionKept d) (r : HostResponse) :
    c.PositionKept (d.answer r) :=
  { h with }

/-- Every operation but a `CTRL` write keeps the sequencer's position. -/
theorem exec_positionKept {i : Instr} {s t : State} (hi : ∀ d, i ≠ .wrCtrl d) (h : exec i s = .next t) :
    s.ctl.PositionKept t.ctl := by
  have same : s.ctl.PositionKept s.ctl := ⟨rfl, rfl, rfl, rfl, rfl, rfl, rfl, rfl⟩
  cases i
  case wrCtrl d => exact absurd rfl (hi d)
  case rdStatus => cases h; constructor <;> simp
  case wrLength | wrSrc | wrDst | wrKeylen | wrKey | wrIv =>
    cases h
    exact (Ctl.configWrite_positionKept { same with }).answer .ack
  all_goals cases h; exact { same with }

/-- Settles O22: every operation changes one controller only, and `exec_positionKept` says what only `CTRL` moves. -/
theorem operationsFrame : Obligations.OperationsFrame := by
  intro i s t h
  obtain ⟨d, hd, hnext⟩ := exec_latchesKept i s
  refine ⟨?frame, fun hi => ?position⟩
  case frame =>
    cases hnext.symm.trans h
    exact ⟨fun _ => rfl, rfl, rfl, rfl, rfl, rfl, hd.regBase, hd.inBlk, hd.outBlk, hd.oracleOpen, hd.corePending,
      hd.draw⟩
  case position =>
    obtain ⟨hseq, hph, hwx, hwy, herr, hblkcnt, hdir, hie⟩ := exec_positionKept hi h
    exact ⟨hseq, hph, hwx, hwy, herr, hblkcnt, hdir, hie⟩

/-! ### The key registers are not observable (R25, R137, R158) -/

/-- The controller with other key registers. -/
def Ctl.withKey (key : Vector Word 8) (c : Ctl) : Ctl :=
  { c with key := key }

/-- A configuration write that commutes with a change of the key registers does so while BUSY too. -/
theorem Ctl.configWrite_withKey {f : Ctl → Ctl} {key : Vector Word 8} {c : Ctl}
    (h : f (c.withKey key) = (f c).withKey key) :
    (c.withKey key).configWrite f = (c.configWrite f).withKey key := by
  unfold Ctl.configWrite
  change (if c.busy then _ else _) = _
  split
  · rfl
  · exact h

theorem Ctl.acquire_withKey (key : Vector Word 8) (c : Ctl) :
    (c.withKey key).acquire = c.acquire.withKey key := by
  unfold Ctl.acquire
  change (if c.done then _ else _) = _
  split <;> rfl

theorem Ctl.writeCtrl_withKey (rivals : List BufferWindow) (d : Word) (key : Vector Word 8) (c : Ctl) :
    (c.withKey key).writeCtrl rivals d = (c.writeCtrl rivals d).withKey key := by
  unfold Ctl.writeCtrl
  split <;> rfl

/-- A host write leaves a difference in the key registers alone when its effect does. -/
theorem hostWrite_withKey {f : Ctl → Ctl} {s t : State} {key : Vector Word 8}
    (hf : f (s.ctl.withKey key) = (f s.ctl).withKey key) (h : hostWrite f s = .next t) :
    hostWrite f (s.mapCtl (Ctl.withKey key)) = .next (t.mapCtl (Ctl.withKey key)) := by
  cases h
  exact congrArg (fun c => Host.Outcome.next (s.mapCtl fun _ => Ctl.answer .ack c)) hf

/-- Settles O23: an operation's effect commutes with a change of the key registers. -/
theorem keyIsNotObservable : Obligations.KeyIsNotObservable := by
  intro i s t key hi h
  change exec i (s.mapCtl (Ctl.withKey key)) = .next (t.mapCtl (Ctl.withKey key))
  cases i
  case wrKey n d => exact absurd rfl (hi n d)
  case rdStatus =>
    cases h
    exact congrArg (fun c => Host.Outcome.next (s.mapCtl fun _ => Ctl.answer (.data s.ctl.statusWord) c))
      (Ctl.acquire_withKey key s.ctl)
  case wrCtrl d => exact hostWrite_withKey (Ctl.configWrite_withKey (Ctl.writeCtrl_withKey _ d key _)) h
  case wrLength | wrSrc | wrDst | wrKeylen | wrIv =>
    exact hostWrite_withKey (Ctl.configWrite_withKey rfl) h
  all_goals cases h; rfl

end Sys2Proof.Machine
end

section
/-! PROOFS. The obligations of spec/10_state.md on single steps: what a BUSY controller keeps (O48), when a flag rises
(O50) and when a request is sent (O55). -/

namespace Sys2Proof.Machine

/-! ### What a step of any agent leaves of the selected controller -/

/-- The registers and latches of the selected controller after an event that selects no other. -/
inductive Ctl.After (c : Ctl) : Event → Ctl → Prop
  | untouched {e : Event} (h : e.isReset = false) (hc : ∀ any, e ≠ .controller any) : Ctl.After c e c
  | served {acc : HostAccess} {d : Ctl} (h : c.Served acc.write d) : Ctl.After c (.host acc) d
  | slaveError {acc : HostAccess} : Ctl.After c (.host acc) (c.answer .slaveError)
  | marked {a : Addr} {v any : Byte} : Ctl.After c (.hostStore a v any) (c.markForeign a)
  | stepped {any : Block} {d : Ctl} (h : c.Moves d) : Ctl.After c (.controller any) d.refreshIrq
  | answered {draw : CoreDraw} (cv : Option Variant) (ck : Option (List Byte)) (ok : Bool) (data : Block) :
      Ctl.After c (.core draw) (Ctl.coreAnswer ok data { c with cv := cv, ck := ck, draw := draw }).refreshIrq
  | reset {part : Nat} {any : Block} : Ctl.After c (.reset part any) c.rst

/-- An event that selects no other controller leaves of the selected one what `Ctl.After` lists. -/
theorem runEvent_after {s t : State} {e : Event} (he : e.isSelect = false) (h : runEvent e s = .next t) :
    s.ctl.After e t.ctl := by
  cases e with
  | host acc =>
    rcases hostStep_next acc s with ⟨-, d, hd | rfl, hnext⟩ | ⟨k, c, d, -, -, -, hnext⟩ <;>
      cases hnext.symm.trans h
    · exact .served hd
    · exact .slaveError
    · exact .untouched rfl nofun
  | hostLoad a any => cases h; exact .untouched rfl nofun
  | hostStore a v any => cases h; exact .marked
  | controller any =>
    obtain ⟨d, hd, hctl⟩ := s.controllerStep_moves any
    cases h
    exact hctl ▸ .stepped hd
  | core draw =>
    obtain rfl | ⟨q, i, -, -, -, hi, hexec⟩ := coreStep_next h
    · exact .untouched rfl nofun
    · obtain ⟨cv, ck, ok, data, hnext⟩ :=
        exec_core i (s.mapCtl fun c => { c with draw := draw }) (decodeCore_port hi)
      cases hnext.symm.trans hexec
      exact .answered cv ck ok data
  | platform deny => cases h; exact .untouched rfl nofun
  | select k => cases he
  | reset part any => cases h; exact (s.resetStep_frame part any).1 ▸ .reset

/-- A step of the machine that selects no other controller leaves of the selected one what its event can leave. -/
theorem step_after {s t : State} {e : Event} {rest : List Event} (hinbox : s.inbox = e :: rest)
    (he : e.isSelect = false) (h : step s = .next t) : s.ctl.After e t.ctl := by
  rw [step_of_inbox hinbox] at h
  exact runEvent_after (s := { s with inbox := rest }) he h

/-! ### The forms of a controller step (R88) -/

/-- The requests a controller sends, each with the phase that waits for its answer (R91, R93, R96, R100). -/
inductive Ctl.Requests (c : Ctl) : CoreWord → Phase → Prop
  | openCore (hq : c.seq = .setup) (hp : c.ph = .openReq) :
      Ctl.Requests c (openRequest (variantField c.keyLen.toNat)) .openWait
  | setKey (hq : c.seq = .setup) (hp : c.ph = .key) : Ctl.Requests c (setKeyRequest c.keyBytes) .keyWait
  | cipher (hq : c.seq = .processing) (hp : c.ph = .cipher) :
      Ctl.Requests c (sel c.dir (encRequest c.cipherInput) (decRequest c.cipherInput)) .cipherWait
  | close (hq : c.seq = .closing) (hp : c.ph = .close) : Ctl.Requests c closeRequest .closeWait

/-- The five forms of what a controller step leaves: a failure with or without an answer consumed, a request, a move on
within the transform, and the end of the transform. -/
inductive Ctl.Form (c : Ctl) : Ctl → Prop
  | failed (e : ErrCode) (written : Nat) (hb : c.busy = true) : Ctl.Form c ((c.fail e).noteWritten written)
  | answerFailed (e : ErrCode) (hb : c.busy = true) : Ctl.Form c (c.consume.fail e)
  | sent {q : CoreWord} {p : Phase} (h : c.Requests q p) : Ctl.Form c (c.sendRequest q p)
  | moved (q : SeqState) (p : Phase) (isOpen pending : Bool) (resp : Option CoreResp) (i o x y : Block) (count : Word)
      (race : Races) : Ctl.Form c { c with
        seq := q, ph := p, oracleOpen := isOpen, corePending := pending, coreResp := resp, inBlk := i, outBlk := o
        wx := x, wy := y, blkcnt := count, race := race }
  | ended {q : SeqState} (hb : c.busy = true) (hq : q = .completed ∨ q = .failed) : Ctl.Form c { c.consume with
      oracleOpen := false, iv := if c.commits then halvesToRegs c.wy c.wx else c.iv, seq := q, ph := .none
      done := true }

/-- What a commit leaves in the IV registers (R102). -/
theorem Ctl.commit_iv (c : Ctl) :
    c.commit.iv = if c.dir && c.nBlocks != 0#32 then halvesToRegs c.wy c.wx else c.iv :=
  apply_ite Ctl.iv _ _ _

/-- A controller that consumes the CLOSE answer of a successful transform commits as R102 says. -/
theorem Ctl.commits_of_takeClose {c : Ctl} {r : CoreResp} (hq : c.seq = .closing) (hp : c.ph = .closeWait)
    (hr : c.coreResp = some r) (herr : c.err = .none) : c.commits = (c.dir && c.nBlocks != 0#32) := by
  simp [Ctl.commits, hq, hp, hr, herr]

theorem Ctl.takeClose_form {c : Ctl} {r : CoreResp} (hq : c.seq = .closing) (hp : c.ph = .closeWait)
    (hr : c.coreResp = some r) : c.Form (c.takeClose r) := by
  have hb : c.busy = true := congrArg SeqState.busy hq
  unfold Ctl.takeClose
  dsimp only
  split
  · next herr =>
    have hform := Ctl.Form.ended (q := .completed) hb (.inl rfl)
    rw [Ctl.commits_of_takeClose hq hp hr herr] at hform
    rw [Ctl.commit_eq, Ctl.commit_iv]
    exact hform
  · next herr =>
    have hno : c.commits = false := by simp [Ctl.commits, herr]
    have hform := Ctl.Form.ended (q := .failed) hb (.inr rfl)
    rw [hno] at hform
    exact hform

/-- Every controller step has one of the five forms. -/
theorem Ctl.Moves.form {c d : Ctl} (h : c.Moves d) : c.Form d := by
  cases h with
  | stay _ => exact .moved ..
  | validate hq _ =>
    have hb : c.busy = true := congrArg SeqState.busy hq
    unfold Ctl.validate
    split
    · exact Ctl.noteWritten_zero (c.fail _) ▸ .failed _ 0 hb
    · split
      · exact Ctl.noteWritten_zero (c.fail _) ▸ .failed _ 0 hb
      · exact .moved ..
  | issueOpen hq hp => exact .sent (.openCore hq hp)
  | takeOpen r hq _ _ =>
    unfold Ctl.takeOpen
    split
    · exact .moved ..
    · exact .answerFailed _ (congrArg SeqState.busy hq)
  | issueSetKey hq hp => exact .sent (.setKey hq hp)
  | takeSetKey r hq _ _ =>
    unfold Ctl.takeSetKey
    split
    · exact .answerFailed _ (congrArg SeqState.busy hq)
    · split <;> exact .moved ..
  | fetch b _ _ => exact .moved ..
  | refused written hq _ => exact .failed _ written (congrArg SeqState.busy hq)
  | issueCipher hq hp => exact .sent (.cipher hq hp)
  | takeCipher r hq _ _ =>
    unfold Ctl.takeCipher
    split
    · exact .answerFailed _ (congrArg SeqState.busy hq)
    · exact .moved ..
  | finishBlock _ _ =>
    unfold Ctl.finishBlock
    dsimp only
    split <;> exact .moved ..
  | issueClose hq hp => exact .sent (.close hq hp)
  | takeClose r hq hp hr => exact Ctl.takeClose_form hq hp hr

/-! ### The configuration registers (R28) -/

/-- The configuration registers other than the IV keep their values. -/
structure Ctl.ConfigKept (c d : Ctl) : Prop where
  dir : d.dir = c.dir
  ie : d.ie = c.ie
  length : d.length = c.length
  srcAddr : d.srcAddr = c.srcAddr
  dstAddr : d.dstAddr = c.dstAddr
  keyLen : d.keyLen = c.keyLen
  key : d.key = c.key

theorem Ctl.ConfigKept.refl (c : Ctl) : c.ConfigKept c :=
  ⟨rfl, rfl, rfl, rfl, rfl, rfl, rfl⟩

/-- No controller step changes a configuration register other than the IV. -/
theorem Ctl.Form.configKept {c d : Ctl} (h : c.Form d) : c.ConfigKept d := by
  cases h with
  | failed | answerFailed => constructor <;> simp
  | sent | moved | ended => exact { Ctl.ConfigKept.refl c with }

/-- Only the commit writes the IV among the controller's steps (R102). -/
theorem Ctl.Form.iv_kept {c d : Ctl} (h : c.Form d) (hcommits : c.commits = false) : d.iv = c.iv := by
  cases h with
  | failed | answerFailed => simp
  | sent | moved => rfl
  | ended => simp [hcommits]

/-- A controller commits only where it consumes the CLOSE answer. -/
theorem Ctl.commits_position {c : Ctl} (h : c.commits = true) :
    c.seq = .closing ∧ c.ph = .closeWait ∧ c.enabled = true := by
  obtain ⟨hq, hp, hr⟩ : c.seq = .closing ∧ c.ph = .closeWait ∧ c.coreResp.isSome = true := by
    simp_all [Ctl.commits]
  exact ⟨hq, hp, by simp [Ctl.enabled, Ctl.busy, hq, SeqState.busy, hr]⟩

/-- A step that commits ends the transform and leaves the working halves in the IV (R101, R102). -/
theorem Ctl.Moves.iv_committed {c d : Ctl} (h : c.Moves d) (hcommits : c.commits = true) :
    d.iv = halvesToRegs c.wy c.wx ∧ d.busy = false := by
  obtain ⟨hclosing, hwait, henabled⟩ := Ctl.commits_position hcommits
  cases h with
  | stay hstay => rw [henabled, hclosing, hwait] at hstay; exact absurd hstay (by decide)
  | takeClose r hq hp hr =>
    have herr : c.err = .none := by simp_all [Ctl.commits]
    have hguard : (c.dir && c.nBlocks != 0#32) = true := Ctl.commits_of_takeClose hq hp hr herr ▸ hcommits
    unfold Ctl.takeClose
    dsimp only
    rw [if_pos herr]
    exact ⟨(Ctl.commit_iv _).trans (if_pos hguard), rfl⟩
  | issueClose hq hp => cases hwait.symm.trans hp
  | validate hq | issueOpen hq | takeOpen _ hq | issueSetKey hq | takeSetKey _ hq | fetch _ hq | refused _ hq
  | issueCipher hq | takeCipher _ hq | finishBlock hq => cases hclosing.symm.trans hq

/-- A host operation on a BUSY controller keeps every configuration register (R28, R121). -/
theorem Ctl.Served.configKept {c d : Ctl} {write : Bool} (h : c.Served write d) (hb : c.busy = true) :
    c.ConfigKept d ∧ d.iv = c.iv := by
  cases h with
  | acquire r => exact ⟨by constructor <;> simp, by simp⟩
  | configured hidle _ => cases hb.symm.trans hidle
  | read | dropped | flags | ignored => exact ⟨{ Ctl.ConfigKept.refl c with }, rfl⟩

/-- Every event but reset keeps the configuration registers of a BUSY controller, save the IV at the commit. -/
theorem Ctl.After.configKept {c d : Ctl} {e : Event} (h : c.After e d) (hreset : e.isReset = false)
    (hb : c.busy = true) :
    c.ConfigKept d ∧ ((∀ any, e = .controller any → c.commits = false) → d.iv = c.iv) := by
  cases h with
  | untouched _ _ => exact ⟨.refl c, fun _ => rfl⟩
  | served h => exact ⟨(h.configKept hb).1, fun _ => (h.configKept hb).2⟩
  | slaveError => exact ⟨{ Ctl.ConfigKept.refl c with }, fun _ => rfl⟩
  | marked => exact ⟨by constructor <;> simp, fun _ => by simp⟩
  | stepped h => exact ⟨{ h.form.configKept with }, fun hno => h.form.iv_kept (hno _ rfl)⟩
  | answered cv ck ok data => exact ⟨{ Ctl.ConfigKept.refl c with }, fun _ => rfl⟩
  | reset => cases hreset

/-- The controller step that commits ends the transform and leaves the working halves in the IV. -/
theorem Ctl.After.iv_committed {c d : Ctl} {any : Block} (h : c.After (.controller any) d)
    (hcommits : c.commits = true) : d.iv = halvesToRegs c.wy c.wx ∧ d.busy = false := by
  cases h with
  | untouched _ hother => exact absurd rfl (hother any)
  | stepped h => exact h.iv_committed hcommits

/-- Settles O48: by what an event can leave of the selected controller; the commit is a controller step. -/
theorem configurationConstantWhileBusy : Obligations.ConfigurationConstantWhileBusy := by
  intro s t e rest hinbox hreset hselect hb ht
  have hafter := step_after hinbox hselect ht
  obtain ⟨⟨hdir, hie, hlength, hsrc, hdst, hkeyLen, hkey⟩, hiv⟩ := hafter.configKept hreset hb
  exact ⟨hdir, hie, hlength, hsrc, hdst, hkeyLen, hkey, hiv, fun any he => (he ▸ hafter).iv_committed⟩

/-! ### The flags (R18, R99, R101, R121, R123, R125) -/

/-- The failure path changes `DONE` only where it ends in FAILED (R99). -/
theorem Ctl.fail_done (c : Ctl) (e : ErrCode) : (c.fail e).done = c.done ∨ (c.fail e).seq = .failed := by
  unfold Ctl.fail
  split
  · exact .inl rfl
  · exact .inr rfl

/-- A controller step changes `DONE` only where it ends the transform (R99, R101). -/
theorem Ctl.Form.done_changes {c d : Ctl} (h : c.Form d) :
    d.done = c.done ∨ c.busy = true ∧ (d.seq = .completed ∨ d.seq = .failed) := by
  cases h with
  | failed e written hb => exact (c.fail_done e).imp_right fun hend => ⟨hb, .inr hend⟩
  | answerFailed e hb => exact (c.consume.fail_done e).imp_right fun hend => ⟨hb, .inr hend⟩
  | sent | moved => exact .inl rfl
  | ended hb hq => exact .inr ⟨hb, hq⟩

/-- No host operation raises `DONE`. -/
theorem Ctl.Served.done_le {c d : Ctl} {write : Bool} (h : c.Served write d) (h0 : c.done = false) :
    d.done = false := by
  cases h with
  | acquire r => simpa using h0
  | flags d => simp [h0]
  | configured _ hd =>
    cases hd with
    | start => rfl
    | control | length | src | dst | keyLen | key | iv => exact h0
  | read | dropped | ignored => exact h0

/-- `DONE` rises only at a controller step that ends the transform. -/
theorem Ctl.After.done_rises {c d : Ctl} {e : Event} (h : c.After e d) (h0 : c.done = false) (h1 : d.done = true) :
    (∃ any, e = .controller any) ∧ c.busy = true ∧ (d.seq = .completed ∨ d.seq = .failed) := by
  cases h with
  | stepped hd =>
    rcases hd.form.done_changes with hkept | hend
    · cases h0.symm.trans (hkept.symm.trans h1)
    · exact ⟨⟨_, rfl⟩, hend⟩
  | served hd => cases (hd.done_le h0).symm.trans h1
  | marked => cases h0.symm.trans ((Ctl.markForeign_done _ _).symm.trans h1)
  | reset => cases h1
  | untouched | slaveError | answered => cases h0.symm.trans h1

/-- The writes of data `d` to a configuration register (R121). -/
def configWrites (d : Word) (n : Fin 8) : List Instr :=
  [.wrCtrl d, .wrLength d, .wrSrc d, .wrDst d, .wrKeylen d, .wrKey n d, .wrIv n d]

/-- The data a host operation writes, if it is a write. -/
def writeData : Instr → Option Word
  | .wrCtrl d | .wrStatus d | .wrErrcode d | .wrBlkcnt d | .wrLength d | .wrSrc d | .wrDst d | .wrKeylen d
  | .wrKey _ d | .wrIv _ d | .wrRsvd _ d => some d
  | _ => none

/-- Every row of R64 builds either a read or a write of the access's data. -/
theorem hostRows_writeData (n : Fin 8) (d : Word) :
    ∀ r ∈ hostRows, writeData (r.build n d) = if isWrite (r.build n d) then some d else none := by
  simp [hostRows, controlRows, indexedRows, writeData, isWrite]

/-- An access word decodes to a write of its data when `W` is 1, and to a read otherwise (R63). -/
theorem decodeHost_writeData {w : HostWord} {i : Instr} (h : decodeHost w = .ok i) :
    writeData i = if w.access.getLsbD 7 then some w.data else none := by
  rw [← (decodeHost_port h).2]
  unfold decodeHost at h
  split at h
  · next r hr =>
    cases h
    exact hostRows_writeData _ _ r (List.mem_of_find?_eq_some hr)
  · cases h

theorem writeData_of_mem_configWrites {i : Instr} {d : Word} {n : Fin 8} (h : i ∈ configWrites d n) :
    writeData i = some d := by
  simp only [configWrites, List.mem_cons, List.not_mem_nil, or_false] at h
  rcases h with rfl | rfl | rfl | rfl | rfl | rfl | rfl <;> rfl

/-- What a write leaves that is ignored because its controller is BUSY (R121). -/
def State.ignoreWrite (s : State) : State :=
  s.mapCtl fun c => Ctl.answer .ack { c with wbusy := true }

/-- A configuration write raises `WBUSY` only where it is ignored (R121). -/
theorem hostWrite_wbusy_rises {f : Ctl → Ctl} {s t : State} (hf : (f s.ctl).wbusy = s.ctl.wbusy)
    (h : hostWrite (Ctl.configWrite f) s = .next t) (h0 : s.ctl.wbusy = false) (h1 : t.ctl.wbusy = true) :
    s.ctl.busy = true ∧ t = s.ignoreWrite := by
  cases h
  cases hb : s.ctl.busy
  · have hkept : (s.ctl.configWrite f).wbusy = false := by simp [Ctl.configWrite, hb, hf, h0]
    cases hkept.symm.trans h1
  · exact ⟨rfl, by simp [State.ignoreWrite, State.mapCtl, Ctl.configWrite, hb]⟩

/-- An operation raises `WBUSY` only where it is a configuration write that is ignored (R121). -/
theorem exec_wbusy_rises {i : Instr} {s t : State} (h : exec i s = .next t) (h0 : s.ctl.wbusy = false)
    (h1 : t.ctl.wbusy = true) :
    s.ctl.busy = true ∧ t = s.ignoreWrite ∧ ∃ d n, i ∈ configWrites d n := by
  cases i
  case wrCtrl d =>
    have hf : (Ctl.writeCtrl s.runningElsewhere d s.ctl).wbusy = s.ctl.wbusy := by
      unfold Ctl.writeCtrl
      split <;> rfl
    exact (hostWrite_wbusy_rises hf h h0 h1).imp_right fun ht => ⟨ht, d, 0, by simp [configWrites]⟩
  case wrLength d | wrSrc d | wrDst d | wrKeylen d =>
    exact (hostWrite_wbusy_rises rfl h h0 h1).imp_right fun ht => ⟨ht, d, 0, by simp [configWrites]⟩
  case wrKey n d | wrIv n d =>
    exact (hostWrite_wbusy_rises rfl h h0 h1).imp_right fun ht => ⟨ht, d, n, by simp [configWrites]⟩
  case rdStatus | wrStatus => cases h; simp [h0] at h1
  all_goals cases h; cases h0.symm.trans h1

/-- A host access raises the selected controller's `WBUSY` only where it runs an operation there. -/
theorem hostStep_wbusy_rises {acc : HostAccess} {s t : State} (h : hostStep acc s = .next t)
    (h0 : s.ctl.wbusy = false) (h1 : t.ctl.wbusy = true) :
    ∃ i, decodeHost (hostWordOf acc.write (s.ctl.offsetOf acc.addr) acc.data) = .ok i ∧ exec i s = .next t := by
  rcases hostStep_next acc s with ⟨hsel, -⟩ | ⟨k, c, d, -, -, -, hnext⟩
  · simp only [hostStep, hsel, registerAccess] at h
    split at h
    · cases h
      cases h0.symm.trans h1
    · split at h
      · next i hi => exact ⟨i, hi, h⟩
      · cases h
        cases h0.symm.trans h1
  · cases hnext.symm.trans h
    cases h0.symm.trans h1

/-- No controller step changes `WBUSY`. -/
theorem Ctl.Form.wbusy_kept {c d : Ctl} (h : c.Form d) : d.wbusy = c.wbusy := by
  cases h with
  | failed | answerFailed => simp
  | sent | moved | ended => rfl

/-- `WBUSY` rises at no step but a host access. -/
theorem Ctl.After.wbusy_rises {c d : Ctl} {e : Event} (h : c.After e d) (h0 : c.wbusy = false)
    (h1 : d.wbusy = true) : ∃ acc, e = .host acc := by
  cases h with
  | served | slaveError => exact ⟨_, rfl⟩
  | stepped hd => cases h0.symm.trans (hd.form.wbusy_kept.symm.trans h1)
  | marked => cases h0.symm.trans ((Ctl.markForeign_wbusy _ _).symm.trans h1)
  | reset => cases h1
  | untouched | answered => cases h0.symm.trans h1

/-- The `W` bit of an access is bit 7 of its access word (R63). -/
theorem hostWordOf_write (write : Bool) (off : HostAddr) (data : Word) :
    (hostWordOf write off data).access.getLsbD 7 = write := by
  simp only [hostWordOf, accessWord, BitVec.getLsbD_append]
  cases write <;> rfl

/-- Settles O50: `DONE` by what an event can leave, `WBUSY` by the operation that a host access runs. -/
theorem flagsRiseOnlyAsListed : Obligations.FlagsRiseOnlyAsListed := by
  intro s t e rest hinbox hselect ht
  have hafter := step_after hinbox hselect ht
  refine ⟨hafter.done_rises, fun h0 h1 => ?wbusy⟩
  obtain ⟨acc, rfl⟩ := hafter.wbusy_rises h0 h1
  rw [step_of_inbox hinbox] at ht
  obtain ⟨i, hi, hexec⟩ := hostStep_wbusy_rises ht h0 h1
  obtain ⟨hb, hnext, d, n, hmem⟩ := exec_wbusy_rises hexec h0 h1
  have hdata : some d = if acc.write then some acc.data else none := by
    rw [← writeData_of_mem_configWrites hmem, decodeHost_writeData hi, hostWordOf_write]
    rfl
  split at hdata
  · next hwrite =>
    cases hdata
    rw [hwrite] at hi
    exact ⟨hb, hnext, acc, i, rfl, hwrite, hi, n, hmem⟩
  · cases hdata

/-! ### The requests (R35, R104, R108) -/

/-- A request is sent from a phase that does not wait. -/
theorem Ctl.Requests.not_waiting {c : Ctl} {q : CoreWord} {p : Phase} (h : c.Requests q p) :
    c.ph.waiting = false := by
  cases h with
  | openCore _ hp | setKey _ hp | cipher _ hp | close _ hp => rw [hp]; rfl

/-- A controller step that puts a request on the empty core port sends it. -/
theorem Ctl.Form.requests {c d : Ctl} {q : CoreWord} (h : c.Form d) (h0 : c.coreReq = none)
    (h1 : d.coreReq = some q) : d.corePending = true ∧ ∃ p, c.Requests q p := by
  cases h with
  | sent h => cases h1; exact ⟨rfl, _, h⟩
  | failed | answerFailed => simp [h0] at h1
  | moved | ended => cases h0.symm.trans h1

/-- A valid key length names one of the three variants (R5, R67). -/
theorem variantField_of_valid {n : Nat} (h : keyLengthOk n = true) : ∃ v : Variant, variantField n = v.bits := by
  simp only [keyLengthOk, Bool.or_eq_true, beq_iff_eq] at h
  obtain (rfl | rfl) | rfl := h
  · exact ⟨.v128, rfl⟩
  · exact ⟨.v192, rfl⟩
  · exact ⟨.v256, rfl⟩

/-- The cipher request asks for the block function of the direction (R96). -/
theorem decodeCore_cipherRequest (dir : Bool) (b : Block) :
    decodeCore (sel dir (encRequest b) (decRequest b)) = .ok (if dir then .coreEnc b else .coreDec b) := by
  cases dir
  · exact decode_encode (.coreDec b)
  · exact decode_encode (.coreEnc b)

/-- Settles O55: by the request sent, read back by the core's decoder; the oracle is open as R34 says. -/
theorem requestsAreSentInOrder : Obligations.RequestsAreSentInOrder := by
  intro s any q h h0 h1
  obtain ⟨d, hd, hctl⟩ := s.controllerStep_moves any
  rw [hctl] at h1 ⊢
  obtain ⟨hpending, p, hrequest⟩ := hd.form.requests h0 h1
  have hidle := h.1.portIdle hrequest.not_waiting
  refine ⟨hidle.pending, hidle.slot, hpending, ?_⟩
  rw [h.1.oracle]
  cases hrequest with
  | openCore hq hp =>
    obtain ⟨v, hv⟩ := variantField_of_valid (h.1.config (by rw [hq]; rfl)).2
    have hdecode : decodeCore (openRequest (variantField s.ctl.keyLen.toNat)) = .ok (.coreOpen v) :=
      hv ▸ decode_encode (.coreOpen v)
    rw [hdecode]
    cases s.ctl.dir <;> simp [hq, hp, oracleExpected]
  | setKey hq hp =>
    have hdecode : decodeCore (setKeyRequest s.ctl.keyBytes) =
        .ok (.coreSetKey ⟨BitVec.ofNat 6 s.ctl.keyBytes.length, keyData s.ctl.keyBytes⟩) := rfl
    rw [hdecode]
    cases s.ctl.dir <;> simp [hq, hp, oracleExpected]
  | cipher hq hp =>
    rw [decodeCore_cipherRequest]
    cases s.ctl.dir <;> simp [hq, oracleExpected]
  | close hq hp =>
    have hdecode : decodeCore closeRequest = .ok .coreClose := decode_encode .coreClose
    rw [hdecode]
    cases s.ctl.dir <;> simp [hq, oracleExpected]

end Sys2Proof.Machine
end

section
/-! PROOFS. The obligations of spec/20_memory.md on the registers: the bytes a register write sets (O19), and which
accesses to a window are refused (O10). -/

namespace Sys2Proof.Machine

/-! ### Bytes of registers (R42) -/

/-- Settles O19: byte `j` is read from register `j div 4`, which the write replaces or leaves. -/
theorem registerWriteSetsFourBytes : Obligations.RegisterWriteSetsFourBytes := by
  intro regs n d j
  simp only [registerByte, byteOf, Vector.get_eq_getElem]
  split
  · next hj => rw [Vector.getElem_set, if_pos hj.symm]
  · next hj => rw [Vector.getElem_set, if_neg (Ne.symm hj)]

/-! ### Register accesses that a window refuses or runs (R44, R120) -/

/-- What the port refuses: another size, an offset that is no multiple of 4, or one above the last register's (R44). -/
theorem accessRefused_iff (size : Nat) (off : HostAddr) :
    accessRefused size off = true ↔ size ≠ 4 ∨ off.extractLsb' 0 2 ≠ 0#2 ∨ off.toNat > 0x7C := by
  simp [accessRefused, Config.lastOffset, or_assoc]

theorem registerAccess_refused {acc : HostAccess} {s : State}
    (h : accessRefused acc.size (s.ctl.offsetOf acc.addr) = true) : registerAccess acc s = slaveError s :=
  if_pos h

/-- Every access word with `A[1:0] = 00` is covered by a row of R64. -/
theorem decodeHost_of_aligned {w : HostWord} (h : w.access.extractLsb' 0 2 = 0#2) : ∃ i, decodeHost w = .ok i := by
  have hcovered : ∀ a : BitVec 8, a.extractLsb' 0 2 = 0#2 → (hostRows.find? (fun r => r.covers a)).isSome = true := by
    decide
  obtain ⟨r, hr⟩ := Option.isSome_iff_exists.mp (hcovered w.access h)
  exact ⟨_, decodeHost_of_find hr w.data⟩

/-- An access word has the low bits of its offset (R63). -/
theorem hostWordOf_alignment (write : Bool) (off : HostAddr) (data : Word) :
    (hostWordOf write off data).access.extractLsb' 0 2 = off.extractLsb' 0 2 := by
  ext j hj
  have hlow : j < 7 := by omega
  simp only [hostWordOf, accessWord, BitVec.getElem_extractLsb', BitVec.getLsbD_append]
  simp [hlow]

/-- An access that is not refused runs an operation of the host port. -/
theorem registerAccess_runs {acc : HostAccess} {s : State} (hsize : acc.size = 4)
    (haligned : (s.ctl.offsetOf acc.addr).extractLsb' 0 2 = 0#2)
    (hlast : (s.ctl.offsetOf acc.addr).toNat ≤ Config.lastOffset) :
    ∃ i, onHostPort i = true ∧ registerAccess acc s = exec i s := by
  obtain ⟨i, hi⟩ := decodeHost_of_aligned ((hostWordOf_alignment acc.write _ acc.data).trans haligned)
  exact ⟨i, (decodeHost_port hi).1, registerAccess_of_decodeHost hsize haligned hlast hi⟩

/-! ### The controller that an address belongs to (R39, R159) -/

theorem Ctl.inWindow_eq_false_iff (c : Ctl) (a : HostAddr) : c.inWindow a = false ↔ 128 ≤ (a - c.regBase).toNat :=
  decide_eq_false_iff_not.trans Nat.not_lt

/-- An address in one window only, that of the `k`-th other controller, is that controller's. -/
theorem State.instanceAt_of_only {s : State} {a : HostAddr} {k : Nat} {c : Ctl} (hc : s.others[k]? = some c)
    (hin : (a - c.regBase).toNat < 128) (hsel : 128 ≤ (a - s.ctl.regBase).toNat)
    (honly : ∀ j d, j ≠ k → s.others[j]? = some d → 128 ≤ (a - d.regBase).toNat) : s.instanceAt a = some k := by
  obtain ⟨hk, rfl⟩ := List.getElem?_eq_some_iff.mp hc
  rw [State.instanceAt, if_neg (by simp [(Ctl.inWindow_eq_false_iff _ _).mpr hsel]), List.findIdx?_eq_some_iff_getElem]
  refine ⟨hk, decide_eq_true hin, fun j hj => ?_⟩
  have hout := honly j _ (Nat.ne_of_lt hj) (List.getElem?_eq_getElem (Nat.lt_trans hj hk))
  simp [(Ctl.inWindow_eq_false_iff _ _).mpr hout]

/-- An address in no window is no other controller's. -/
theorem State.instanceAt_of_none {s : State} {a : HostAddr} (h : ∀ c ∈ s.others, 128 ≤ (a - c.regBase).toNat) :
    s.instanceAt a = none := by
  have hfind : s.others.findIdx? (·.inWindow a) = none :=
    List.findIdx?_eq_none_iff.mpr fun c hc => (c.inWindow_eq_false_iff a).mpr (h c hc)
  rw [State.instanceAt, hfind, ite_self]

/-- The selected controller takes an access to an address that is no other controller's. -/
theorem hostStep_of_selected {acc : HostAccess} {s : State} (h : s.instanceAt acc.addr = none) :
    hostStep acc s = registerAccess acc s := by
  rw [hostStep, h]

/-- The `k`-th other controller takes an access to its address, and what it leaves of itself stands in its place. -/
theorem hostStep_of_other {acc : HostAccess} {s : State} {k : Nat} {c d : Ctl} (hk : s.instanceAt acc.addr = some k)
    (hc : s.others[k]? = some c)
    (hd : registerAccess acc { s with ctl := c, others := s.others.set k s.ctl } =
      .next { s with ctl := d, others := s.others.set k s.ctl }) :
    hostStep acc s = .next { s with others := s.others.set k d } := by
  rw [← State.select_some hc] at hd
  have hback := State.select_mapCtl_select (d := d) hc
  rw [State.select_some hc, State.mapCtl] at hback
  simp only [hostStep, hk, State.atInstance, hd, hback]

/-- Settles O10: the address decides whose access it is, and the first line of R120 whether it is refused. -/
theorem refusedAccessIsASlaveError : Obligations.RefusedAccessIsASlaveError := by
  intro s acc rest hinbox
  have hstep : step s = hostStep acc { s with inbox := rest } := step_of_inbox hinbox
  rw [hstep]
  refine ⟨?selectedRefused, ?selectedRuns, ?otherRefused, ?otherRuns, ?noWindow⟩
  case selectedRefused =>
    rintro ⟨hin, hrefused⟩
    exact (hostStep_of_inWindow (s := { s with inbox := rest }) (decide_eq_true hin)).trans
      (registerAccess_refused ((accessRefused_iff _ _).mpr hrefused))
  case selectedRuns =>
    intro hsize haligned hlast
    have hin : s.ctl.inWindow acc.addr = true := decide_eq_true (Nat.lt_of_le_of_lt hlast (by decide))
    obtain ⟨i, -, hi⟩ := registerAccess_runs (s := { s with inbox := rest }) hsize haligned hlast
    exact ⟨i, (hostStep_of_inWindow (s := { s with inbox := rest }) hin).trans hi⟩
  case otherRefused =>
    rintro k c hc hsel honly ⟨hin, hrefused⟩
    have hk := State.instanceAt_of_only (s := { s with inbox := rest }) hc hin hsel honly
    exact hostStep_of_other hk hc (registerAccess_refused ((accessRefused_iff _ _).mpr hrefused))
  case otherRuns =>
    intro k c hc hsel honly hsize haligned hlast
    have hk := State.instanceAt_of_only (s := { s with inbox := rest }) hc
      (Nat.lt_of_le_of_lt hlast (by decide)) hsel honly
    obtain ⟨i, hport, hi⟩ := registerAccess_runs (acc := acc)
      (s := { s with inbox := rest, ctl := c, others := s.others.set k s.ctl }) hsize haligned hlast
    obtain ⟨d, -, hd⟩ := exec_host i { s with inbox := rest, ctl := c, others := s.others.set k s.ctl } hport
    exact ⟨i, d, hd, hostStep_of_other hk hc (hi.trans hd)⟩
  case noWindow =>
    intro hsel hothers
    have hnone := State.instanceAt_of_none (s := { s with inbox := rest }) hothers
    exact (hostStep_of_selected hnone).trans
      (registerAccess_refused ((accessRefused_iff _ _).mpr (.inr (.inr (Nat.lt_of_lt_of_le (by decide) hsel)))))

end Sys2Proof.Machine
end

section
/-! PROOFS. The obligations of spec/20_memory.md on system memory: its canonical form (O46), what a controller step
writes of it (O52), and what it reads (O53). -/

namespace Sys2Proof.Machine

/-! ### The canonical form of memory (R40) -/

theorem State.hostStore_wf {s : State} (a : Addr) (v any : Byte) (hm : s.mem.wf = true) :
    (s.hostStore a v any).mem.wf = true :=
  memPut_wf hm a.isLt

theorem State.controllerStep_wf {s : State} (any : Block) (hm : s.mem.wf = true) :
    (s.controllerStep any).mem.wf = true := by
  obtain ⟨-, -, -, ⟨hmem, -⟩ | ⟨-, hmem, -⟩⟩ := s.controllerStep_rest any
  · rwa [hmem]
  · rw [hmem]
    exact State.writeBytes_wf _ _ _ _ hm

/-- No host register access changes memory. -/
theorem hostStep_mem {acc : HostAccess} {s t : State} (h : hostStep acc s = .next t) : t.mem = s.mem := by
  rcases hostStep_next acc s with ⟨-, d, -, hnext⟩ | ⟨k, c, d, -, -, -, hnext⟩ <;>
  · cases hnext.symm.trans h
    rfl

/-- No core answer changes memory. -/
theorem coreStep_mem {draw : CoreDraw} {s t : State} (h : coreStep draw s = .next t) : t.mem = s.mem := by
  obtain rfl | ⟨q, i, -, -, -, hi, hexec⟩ := coreStep_next h
  · rfl
  · obtain ⟨cv, ck, ok, data, hnext⟩ := exec_core i _ (decodeCore_port hi)
    cases hnext.symm.trans hexec
    rfl

/-- No selection changes memory. -/
theorem State.select_mem (k : Nat) (s : State) : (s.select k).mem = s.mem := by
  unfold State.select
  split <;> rfl

/-- Every agent's step keeps the canonical form. -/
theorem runEvent_wf {s t : State} {e : Event} (hm : s.mem.wf = true) (h : runEvent e s = .next t) :
    t.mem.wf = true := by
  cases e with
  | host acc => rwa [hostStep_mem h]
  | hostLoad a any => cases h; exact hm
  | hostStore a v any => cases h; exact State.hostStore_wf a v any hm
  | controller any => cases h; exact State.controllerStep_wf any hm
  | core draw => rwa [coreStep_mem h]
  | platform deny => cases h; exact hm
  | select k => cases h; rwa [State.select_mem]
  | reset part any => cases h; exact State.resetStep_wf part any hm

/-- Settles O46: by the agent whose step is taken. -/
theorem stepKeepsMemoryCanonical : Obligations.StepKeepsMemoryCanonical := by
  intro s t hm h
  cases hinbox : s.inbox with
  | nil =>
    rw [step, hinbox] at h
    cases h
    exact hm
  | cons e rest =>
    rw [step_of_inbox hinbox] at h
    exact runEvent_wf (s := { s with inbox := rest }) hm h

/-! ### What a controller step writes (R47, R52, R53) -/

/-- Settles O52: only the write step touches memory, and it changes no byte outside its sixteen. -/
theorem controllerWritesOnlyItsOutputBlock : Obligations.ControllerWritesOnlyItsOutputBlock := by
  intro s any a hm hchanged
  obtain ⟨-, -, -, ⟨hmem, -⟩ | ⟨⟨hq, hp⟩, hmem, -⟩⟩ := s.controllerStep_rest any
  · exact absurd (congrArg (memGet · a.toNat) hmem) hchanged
  · refine ⟨hq, hp, ?_⟩
    by_contra hout
    have hkept := State.writeBytes_outside (blk := s.ctl.outBlk) (any := any) (ks := blockPositions) hm
      fun k _ hk => hout ⟨k, hk⟩
    exact hchanged ((congrArg (memGet · a.toNat) hmem).trans hkept)

/-! ### What a controller step reads (R47, R52) -/

/-- A wait step takes the answer in the slot, if there is one (R35, R88). -/
theorem State.onResponse_ctl (f : CoreResp → Ctl → Ctl) (s : State) :
    (s.onResponse f).ctl = s.ctl.coreResp.elim s.ctl (f · s.ctl) := by
  unfold State.onResponse
  split
  · next hr => rw [hr]; rfl
  · next r hr => rw [hr]; rfl

/-- A block write is accepted when each of its byte writes is (R46). -/
theorem State.writeBytes_flag (s : State) (base : Addr) (blk any : Block) (ks : List (Fin 16)) :
    (s.writeBytes base blk any ks).2 = ks.all fun k => s.memOk (byteAddr base k) .write := by
  induction ks generalizing s with
  | nil => rfl
  | cons k ks ih =>
    unfold State.writeBytes
    split
    · next hk => simp [ih, hk]
    · next hk => simp [hk]

/-- What the write step leaves of its registers, by whether all sixteen writes are accepted (R98). -/
theorem State.writeOut_ctl_eq (s : State) (any : Block) :
    (s.writeOut any).ctl =
      if blockPositions.all fun k => s.memOk (byteAddr s.ctl.outputAddr k) .write then s.ctl.finishBlock
      else (s.ctl.fail .memoryAccessFailure).noteWritten (s.acceptedWrites s.ctl.outputAddr blockPositions) := by
  have hflag := s.writeBytes_flag s.ctl.outputAddr s.ctl.outBlk any blockPositions
  have hctl := (s.writeBytes_frame s.ctl.outputAddr s.ctl.outBlk any blockPositions).1
  rw [← hflag]
  unfold State.writeOut State.writeBlock
  split
  · next t h =>
    rw [h] at hctl ⊢
    rw [State.mapCtl_ctl, hctl, if_neg Bool.false_ne_true]
  · next t h =>
    rw [h] at hctl ⊢
    rw [State.mapCtl_ctl, hctl, if_pos rfl]

/-- Two machines with equal selected controllers step them alike when they fetch and write alike (R88). -/
theorem State.sequence_ctl_congr {s t : State} {any : Block} (hctl : t.ctl = s.ctl)
    (hfetch : s.ctl.seq = .processing → s.ctl.ph = .fetch → (t.fetch any).ctl = (s.fetch any).ctl)
    (hwrite : (t.writeOut any).ctl = (s.writeOut any).ctl) : (t.sequence any).ctl = (s.sequence any).ctl := by
  cases hq : s.ctl.seq
  case validating => simp only [State.sequence, hctl, hq]; split <;> simp [hctl]
  case setup | closing =>
    cases hp : s.ctl.ph <;> simp [State.sequence, hctl, hq, hp, State.onResponse_ctl]
  case processing =>
    cases hp : s.ctl.ph
    case fetch => simpa [State.sequence, hctl, hq, hp] using hfetch hq hp
    case write => simpa [State.sequence, hctl, hq, hp] using hwrite
    all_goals simp [State.sequence, hctl, hq, hp, State.onResponse_ctl]
  all_goals simp [State.sequence, hctl, hq]

/-- Which bytes race does not depend on memory, so a read depends on it through the byte alone. -/
theorem State.portByte_withMem {s : State} {m : Memory} {a : Addr} (any : Byte) (h : memGet m a.toNat = s.byteAt a) :
    State.portByte { s with mem := m } a any = s.portByte a any :=
  congrArg (fun v => if s.contested a then any else v) h

/-- A block read depends on memory through its sixteen bytes alone. -/
theorem State.readBlock_withMem {s : State} {m : Memory} {base : Addr} (any : Block)
    (h : ∀ k, memGet m (byteAddr base k).toNat = s.byteAt (byteAddr base k)) :
    State.readBlock { s with mem := m } base any = s.readBlock base any := by
  have hbytes : State.readBytes { s with mem := m } base any blockPositions = s.readBytes base any blockPositions := by
    simp only [State.readBytes_eq, fun k => State.portByte_withMem (any.get k) (h k)]
    rfl
  rw [State.readBlock, State.readBlock, hbytes]

/-- Settles O53: only the fetch looks at memory, and it reads the input block alone. -/
theorem controllerReadsOnlyItsInputBlock : Obligations.ControllerReadsOnlyItsInputBlock := by
  intro s m any hsame
  refine congrArg Ctl.refreshIrq (State.sequence_ctl_congr rfl (fun hq hp => ?fetch) ?write)
  case fetch =>
    have hread : State.readBlock { s with mem := m } s.ctl.inputAddr any = s.readBlock s.ctl.inputAddr any :=
      State.readBlock_withMem any (hsame hq hp)
    rw [State.fetch, State.fetch, hread]
    split <;> rfl
  case write =>
    rw [State.writeOut_ctl_eq, State.writeOut_ctl_eq]
    rfl

end Sys2Proof.Machine
end

section
/-! PROOFS. The obligations of spec/20_memory.md on races: which bytes race for a controller (O60) and for the host
(O56). -/

namespace Sys2Proof.Machine

/-! ### Which bytes race for a controller (R55, R159) -/

theorem BufferWindow.covers_iff (w : BufferWindow) (a : Addr) :
    w.covers a = true ↔ (a - w.src).toNat < w.bytes ∨ (a - w.dst).toNat < w.bytes := by
  simp [BufferWindow.covers, inRange]

/-- The transform a controller is running is that of its open window, while it is BUSY (R30). -/
theorem Ctl.mem_running (c : Ctl) (w : BufferWindow) : w ∈ c.running ↔ c.busy = true ∧ c.race.window = some w := by
  unfold Ctl.running
  split
  · next hb => simp [hb]
  · next hb => simp [hb]

theorem State.mem_runningElsewhere (s : State) (w : BufferWindow) :
    w ∈ s.runningElsewhere ↔ ∃ c ∈ s.others, c.busy = true ∧ c.race.window = some w := by
  simp only [State.runningElsewhere, List.mem_flatMap, Ctl.mem_running]

theorem State.contested_iff (s : State) (a : Addr) :
    s.contested a = true ↔ a.toNat ∈ s.ctl.race.foreign ∨
      ∃ w, (w ∈ s.ctl.race.rivals ∨ ∃ c ∈ s.others, c.busy = true ∧ c.race.window = some w) ∧
        ((a - w.src).toNat < w.bytes ∨ (a - w.dst).toNat < w.bytes) := by
  simp only [State.contested, Bool.or_eq_true, List.contains_iff_mem, List.any_eq_true, List.mem_append,
    State.mem_runningElsewhere, BufferWindow.covers_iff]

/-- The byte writes at the listed positions, as another controller notes them. -/
def Ctl.markForeigns (base : Addr) (ks : List (Fin 16)) (c : Ctl) : Ctl :=
  ks.foldl (fun c k => c.markForeign (byteAddr base k)) c

/-- A block write reaches the other controllers as the writes it makes before one is refused (R46, R55). -/
theorem State.writeBytes_others_eq (s : State) (base : Addr) (blk any : Block) (ks : List (Fin 16)) :
    (s.writeBytes base blk any ks).1.others =
      s.others.map (Ctl.markForeigns base (ks.takeWhile fun k => s.memOk (byteAddr base k) .write)) := by
  induction ks generalizing s with
  | nil => exact (List.map_id _).symm
  | cons k ks ih =>
    unfold State.writeBytes
    split
    · next hk => simp [ih, hk, Ctl.markForeigns]
    · next hk =>
      rw [List.takeWhile_cons_of_neg (p := fun k => s.memOk (byteAddr base k) .write) hk]
      exact (List.map_id _).symm

/-- Everything several writes of another agent can note: those in the ranges of the running transform. -/
theorem Ctl.mem_markForeigns (base : Addr) (ks : List (Fin 16)) (c : Ctl) (b : Nat) :
    b ∈ (c.markForeigns base ks).race.foreign ↔ b ∈ c.race.foreign ∨
      ∃ k ∈ ks, b = (byteAddr base k).toNat ∧ c.running.any (·.covers (byteAddr base k)) = true := by
  induction ks generalizing c with
  | nil => simp [Ctl.markForeigns]
  | cons k ks ih =>
    have hstep : c.markForeigns base (k :: ks) = (c.markForeign (byteAddr base k)).markForeigns base ks := rfl
    rw [hstep, ih, Ctl.mem_markForeign, Ctl.markForeign_running, or_assoc, List.exists_mem_cons_iff]

/-- In a rising list, an element stands before the first one that fails when nothing up to it fails. -/
theorem mem_takeWhile_of_le {ks : List (Fin 16)} {p : Fin 16 → Bool} {m : Fin 16} (hrising : ks.Pairwise (· < ·))
    (hm : m ∈ ks) (hp : ∀ j, j ≤ m → p j = true) : m ∈ ks.takeWhile p := by
  induction ks with
  | nil => exact hm
  | cons k ks ih =>
    obtain ⟨hk, hrising⟩ := List.pairwise_cons.mp hrising
    rcases List.mem_cons.mp hm with rfl | hm
    · rw [List.takeWhile_cons_of_pos (hp m le_rfl)]
      exact List.mem_cons_self
    · rw [List.takeWhile_cons_of_pos (hp k (hk m hm).le)]
      exact List.mem_cons_of_mem _ (ih hrising hm)

/-- The write step reaches the other controllers as its block write does (R98). -/
theorem State.writeOut_others (s : State) (any : Block) :
    (s.writeOut any).others = (s.writeBlock s.ctl.outputAddr s.ctl.outBlk any).1.others := by
  unfold State.writeOut
  split <;> next t h => rw [h]; rfl

/-- The step of a controller in the write phase (R88). -/
theorem State.controllerStep_write {s : State} (any : Block) (hq : s.ctl.seq = .processing) (hp : s.ctl.ph = .write) :
    s.controllerStep any = (s.writeOut any).mapCtl Ctl.refreshIrq := by
  simp only [State.controllerStep, State.sequence, hq, hp]

/-- A byte that the selected controller has noted as another agent's races for it. -/
theorem State.contested_of_foreign {s : State} {a : Addr} (h : a.toNat ∈ s.ctl.race.foreign) :
    s.contested a = true :=
  (s.contested_iff a).mpr (.inl h)

/-- A host store into the ranges of a running transform makes its byte race (R55). -/
theorem State.hostStore_contested {s : State} {a : Addr} (v any : Byte)
    (h : s.ctl.running.any (·.covers a) = true) : (s.hostStore a v any).contested a = true :=
  State.contested_of_foreign ((Ctl.mem_markForeign a s.ctl a.toNat).mpr (.inr ⟨rfl, h⟩))

/-- An accepted byte of a block write races for each other controller whose running transform covers it. -/
theorem State.controllerStep_contested_elsewhere {s : State} (any : Block) {k : Nat} {c : Ctl} {m : Fin 16}
    (hq : s.ctl.seq = .processing) (hp : s.ctl.ph = .write)
    (hok : ∀ j, j ≤ m → s.memOk (byteAddr s.ctl.outputAddr j) .write = true) (hc : s.others[k]? = some c)
    (hcovers : c.running.any (·.covers (byteAddr s.ctl.outputAddr m)) = true) :
    ((s.controllerStep any).select k).contested (byteAddr s.ctl.outputAddr m) = true := by
  have hothers : (s.controllerStep any).others[k]? = some (c.markForeigns s.ctl.outputAddr
      (blockPositions.takeWhile fun k => s.memOk (byteAddr s.ctl.outputAddr k) .write)) := by
    rw [State.controllerStep_write any hq hp, State.mapCtl_others, State.writeOut_others, State.writeBlock,
      State.writeBytes_others_eq, List.getElem?_map, hc]
    rfl
  have haccepted := mem_takeWhile_of_le (by decide) (mem_blockPositions m) hok
  rw [State.select_some hothers]
  exact State.contested_of_foreign ((Ctl.mem_markForeigns _ _ _ _).mpr (.inr ⟨m, haccepted, rfl, hcovers⟩))

/-- Settles O60: a byte races when it is noted as foreign or covered elsewhere; both writes note theirs. -/
theorem contestedBytes : Obligations.ContestedBytes := by
  intro s
  refine ⟨s.contested_iff, ?store, ?blockWrite⟩
  case store =>
    intro a v any rest w hinbox hb hw hin
    exact ⟨_, step_of_inbox hinbox, State.hostStore_contested (s := { s with inbox := rest }) v any
      ((s.ctl.running_covers_iff a).mpr ⟨hb, w, hw, hin⟩)⟩
  case blockWrite =>
    rintro any rest k c w m a hinbox hq hp hok rfl hc hb hw hin
    exact ⟨_, step_of_inbox hinbox, State.controllerStep_contested_elsewhere (s := { s with inbox := rest }) any
      hq hp hok hc ((c.running_covers_iff _).mpr ⟨hb, w, hw, hin⟩)⟩

/-! ### What the host reads (R54, R55, R164) -/

theorem Ctl.mem_unacquired (c : Ctl) (w : BufferWindow) :
    w ∈ c.unacquired ↔ c.race.window = some w ∨ w ∈ c.race.earlier := by
  simp [Ctl.unacquired]

theorem Ctl.covers_iff (c : Ctl) (a : Addr) :
    c.covers a = true ↔ ∃ w, (c.race.window = some w ∨ w ∈ c.race.earlier) ∧
      ((a - w.src).toNat < w.bytes ∨ (a - w.dst).toNat < w.bytes) := by
  simp only [Ctl.covers, List.any_eq_true, Ctl.mem_unacquired, BufferWindow.covers_iff]

theorem Ctl.hasWritten_iff (c : Ctl) (a : Addr) :
    c.hasWritten a = true ↔ ∃ w, (c.race.window = some w ∨ w ∈ c.race.earlier) ∧ (a - w.dst).toNat < w.written := by
  simp only [Ctl.hasWritten, List.any_eq_true, Ctl.mem_unacquired, BufferWindow.wrote, inRange, decide_eq_true_eq]

/-- A controller whose every transform the host has acquired covers no byte. -/
theorem Ctl.covers_of_acquired {c : Ctl} (hwindow : c.race.window = none) (hearlier : c.race.earlier = []) (a : Addr) :
    c.covers a = false := by
  simp [Ctl.covers, Ctl.unacquired, hwindow, hearlier]

/-- A host read of a byte in unacquired ranges returns any value (R55). -/
theorem State.hostLoad_racing {s : State} {a : Addr} (v : Byte) (h : ∃ c ∈ s.ctl :: s.others, c.covers a = true) :
    (s.hostLoad a v).memResp = some v :=
  congrArg some (if_pos (List.any_eq_true.mpr h))

/-- A host read of any other byte returns it (R54). -/
theorem State.hostLoad_settled {s : State} {a : Addr} (v : Byte) (h : ∀ c ∈ s.ctl :: s.others, c.covers a = false) :
    (s.hostLoad a v).memResp = some (s.byteAt a) :=
  congrArg some (if_neg (by simpa using h))

/-- Settles O56: by whether a controller's unacquired transforms cover the byte. -/
theorem racingHostRead : Obligations.RacingHostRead := fun _ a v =>
  ⟨State.hostLoad_racing v, State.hostLoad_settled v,
    fun h => State.hostLoad_settled v fun c hc => Ctl.covers_of_acquired (h c hc).1 (h c hc).2 a,
    fun c => ⟨c.covers_iff a, c.hasWritten_iff a⟩⟩

end Sys2Proof.Machine
end

section
/-! PROOFS. The obligations of spec/30_encoding.md: the decoder and encoder of the two ports (O1 to O5), and that the
core's decoder never stops a legal machine (O44). -/

namespace Sys2Proof.Machine

/-- Settles O1: the words decode to the operation, and are read back from their number. -/
theorem encodedOperationDecodesBack : Obligations.EncodedOperationDecodesBack := by
  intro i _
  refine ⟨decode_encode i, ?_⟩
  rw [decodeTableWord, ofTableWord_toNat, decode_encode]

/-! ### Where the fields stand in the numbers of a request and of a response (R62, R65, R68) -/

/-- Byte `k` of the number of a list of bytes is the list's `k`-th. -/
theorem packBytes_byte {bs : List Byte} {k : Nat} (hk : k < bs.length) :
    (packBytes bs >>> (8 * k)) % 256 = bs[k].toNat := by
  rw [packBytes_shift, List.drop_eq_getElem_cons hk, packBytes]
  have hbyte := bs[k].isLt
  omega

/-- The number of two lists of bytes holds the second above the first. -/
theorem packBytes_append_shift {bs cs : List Byte} {k : Nat} (hk : bs.length = k) :
    packBytes (bs ++ cs) >>> (8 * k) = packBytes cs := by
  rw [packBytes_shift, List.drop_left' hk]

/-- The bits of a request above its data: `klen`, `variant` and `op`, from the lowest up (R65). -/
theorem coreWord_toNat_shift (q : CoreWord) :
    q.toNat >>> 256 = q.klen.toNat + 64 * q.variant.toNat + 256 * q.op.toNat := by
  have hbyte : (q.variant ++ q.klen : Byte).toNat = q.klen.toNat + 64 * q.variant.toNat := by
    rw [BitVec.toNat_append, ← Nat.shiftLeft_add_eq_or_of_lt q.klen.isLt, Nat.shiftLeft_eq]
    omega
  have hop : (q.op.setWidth 8).toNat = q.op.toNat := BitVec.toNat_setWidth_of_le (by decide)
  rw [CoreWord.toNat, packBytes_append_shift (k := 32) q.data.length_toList]
  simp only [packBytes, hbyte, hop]
  omega

/-- Byte `k` of the data of a request is byte `k` of its number (R65). -/
theorem coreWord_toNat_byte (q : CoreWord) (k : Fin 32) :
    (q.toNat >>> (8 * k.val)) % 256 = (q.data.get k).toNat := by
  rw [CoreWord.toNat, packBytes_byte (by simp; omega)]
  simp [Vector.get_eq_getElem]

/-- The bit of a response above its data: `ok` (R68). -/
theorem coreResp_toNat_shift (r : CoreResp) : r.toNat >>> 128 = if r.ok = true then 1 else 0 := by
  rw [CoreResp.toNat, packBytes_append_shift (k := 16) r.data.length_toList]
  cases r.ok <;> rfl

/-- Byte `k` of the data of a response is byte `k` of its number (R68). -/
theorem coreResp_toNat_byte (r : CoreResp) (k : Fin 16) :
    (r.toNat >>> (8 * k.val)) % 256 = (r.data.get k).toNat := by
  rw [CoreResp.toNat, packBytes_byte (by simp; omega)]
  simp [Vector.get_eq_getElem]

/-- Both fields of a response are read back from its 129-bit number (R68). -/
theorem coreResp_ofNat_toNat (r : CoreResp) : CoreResp.ofNat r.toNat = r := by
  obtain ⟨ok, data⟩ := r
  have hbytes := unpackBytes_packBytes (data.toList ++ [(BitVec.ofBool ok).setWidth 8])
  have hlen : (data.toList ++ [(BitVec.ofBool ok).setWidth 8]).length = 17 := by simp
  rw [hlen] at hbytes
  simp only [CoreResp.ofNat, CoreResp.toNat, hbytes, CoreResp.mk.injEq]
  refine ⟨by simp, ?_⟩
  ext k hk : 1
  simp [List.getElem?_append_left]

/-- Settles O2: the fields above the data by shifting it out, the data byte by byte. -/
theorem requestFieldsStandAtTheirBits : Obligations.RequestFieldsStandAtTheirBits := by
  refine ⟨fun q => ?_, fun r => ⟨coreResp_toNat_shift r, coreResp_toNat_byte r, coreResp_ofNat_toNat r⟩⟩
  have hhigh := coreWord_toNat_shift q
  have hklen := q.klen.isLt
  have hvariant := q.variant.isLt
  refine ⟨?op, ?variant, ?klen, coreWord_toNat_byte q, coreWord_ofNat_toNat q⟩
  case op => rw [show 264 = 256 + 8 from rfl, Nat.shiftRight_add, hhigh, Nat.shiftRight_eq_div_pow]; omega
  case variant => rw [show 262 = 256 + 6 from rfl, Nat.shiftRight_add, hhigh, Nat.shiftRight_eq_div_pow]; omega
  case klen => rw [hhigh]; omega

/-! ### The rows of the host table (R64) -/

/-- One row covers an access word with `A[1:0] = 00`, and none covers any other (R64). -/
theorem hostRows_covering_count : ∀ a : BitVec 8,
    (hostRows.filter fun r => r.covers a).length = if a.extractLsb' 0 2 = 0#2 then 1 else 0 := by
  decide

/-- An access word that a row covers decodes to that row's operation, since no other row covers it (R64). -/
theorem decodeHost_of_covers {r : HostRow} {a : BitVec 8} (hr : r ∈ hostRows) (ha : r.covers a = true) (d : Word) :
    decodeHost ⟨a, d⟩ = .ok (r.build (accessIndex a) d) := by
  have hmem : r ∈ hostRows.filter (fun r => r.covers a) := List.mem_filter.mpr ⟨hr, ha⟩
  have hcount : (hostRows.filter fun r => r.covers a).length ≤ 1 := by
    rw [hostRows_covering_count]
    split <;> omega
  obtain ⟨r', hr'⟩ := List.length_eq_one_iff.mp (Nat.le_antisymm hcount (List.length_pos_of_mem hmem))
  rw [hr', List.mem_singleton] at hmem
  refine decodeHost_of_find ?_ d
  rw [← List.head?_filter, hr', hmem]
  rfl

/-- A row that fixes all eight bits is read from its pattern, with any write data (R64). -/
theorem decodeHost_controlRow {r : HostRow} (hr : r ∈ controlRows) (d : Word) :
    decodeHost ⟨r.pattern, d⟩ = .ok (r.build (accessIndex r.pattern) d) := by
  have hcovers : ∀ r ∈ controlRows, r.covers r.pattern = true := by decide
  exact decodeHost_of_covers (List.mem_append_left _ hr) (hcovers r hr) d

/-- A row with a register number in `A[4:2]` is read with that number, with any write data (R64). -/
theorem decodeHost_indexedRow {r : HostRow} (hr : r ∈ indexedRows) (n : Fin 8) (d : Word) :
    decodeHost ⟨r.pattern.extractLsb' 5 3 ++ BitVec.ofNat 3 n.val ++ 0#2, d⟩ = .ok (r.build n d) := by
  have hcovers : ∀ r ∈ indexedRows, ∀ n : Fin 8,
      r.covers (r.pattern.extractLsb' 5 3 ++ BitVec.ofNat 3 n.val ++ 0#2) = true := by
    decide
  have hindex : ∀ (p : BitVec 3) (n : Fin 8), accessIndex (p ++ BitVec.ofNat 3 n.val ++ 0#2) = n := by
    decide
  rw [decodeHost_of_covers (List.mem_append_right _ hr) (hcovers r hr n), hindex]

/-- Settles O3: each row is read at the words it covers, and each word with `A[1:0] = 00` is covered by one row. -/
theorem hostAccessTable : Obligations.HostAccessTable := by
  refine ⟨fun d => ?control, fun n d => ?indexed, hostRows_covering_count⟩
  case control => simpa [controlRows] using fun r hr => decodeHost_controlRow (r := r) hr d
  case indexed => simpa [indexedRows] using fun r hr => decodeHost_indexedRow (r := r) hr n d

/-! ### The requests the core's decoder reads, and the words of the spec (R65 to R67, R74, V22) -/

/-- Settles O4: each `op` is a row of the decoder, which reads no field that means nothing for it. -/
theorem coreRequestTable : Obligations.CoreRequestTable :=
  fun _ _ _ => ⟨rfl, rfl, rfl, rfl, rfl, rfl, rfl, rfl, rfl, rfl, rfl⟩

/-- Settles O5: eight fixed words, each evaluated. -/
theorem specWordsDecode : Obligations.SpecWordsDecode := by
  unfold Obligations.SpecWordsDecode
  decide

/-! ### A legal machine never stops (R74, R108) -/

/-- A legal controller that waits for an answer has a request on the core port, and the core's decoder reads it. -/
theorem Ctl.Legal.coreReq_decodes {c : Ctl} (h : c.Legal) (hpending : c.corePending = true)
    (hresp : c.coreResp = none) : ∃ q i, c.coreReq = some q ∧ decodeCore q = .ok i := by
  have hwaiting : c.ph.waiting = true := h.pending ▸ hpending
  have hreq : c.coreReq = c.awaitedRequest := by simpa [hpending, hresp] using h.request
  rw [hreq, Ctl.awaitedRequest]
  cases hp : c.ph
  case openWait =>
    have hvalidated : c.seq.validated = true := by
      have hphase := h.phase
      cases hq : c.seq <;> simp_all [phaseLegal, SeqState.validated]
    obtain ⟨v, hv⟩ := variantField_of_valid (h.config hvalidated).2
    exact ⟨_, .coreOpen v, rfl, hv ▸ decode_encode (.coreOpen v)⟩
  case keyWait => exact ⟨_, _, rfl, rfl⟩
  case cipherWait => exact ⟨_, _, rfl, decodeCore_cipherRequest _ _⟩
  case closeWait => exact ⟨_, _, rfl, rfl⟩
  all_goals
    rw [hp] at hwaiting
    cases hwaiting

/-- The core of a legal machine has no move, or answers the request that is pending (R108). -/
theorem coreStep_answers {s : State} (h : s.Legal) (draw : CoreDraw) : ∃ t, coreStep draw s = .next t := by
  by_cases hidle : s.ctl.corePending = false ∨ s.ctl.coreResp.isSome = true
  · exact ⟨s, coreStep_idle hidle⟩
  · obtain ⟨hpending, hresp⟩ : s.ctl.corePending = true ∧ s.ctl.coreResp = none := by simpa using hidle
    obtain ⟨q, i, hq, hi⟩ := h.1.coreReq_decodes hpending hresp
    obtain ⟨_, _, _, _, hnext⟩ := exec_core i (s.mapCtl fun c => { c with draw := draw }) (decodeCore_port hi)
    exact ⟨_, (coreStep_of_decodeCore hpending hq hresp hi).trans hnext⟩

/-- A host access ends in a next state, also where the port refuses it (R44, R120). -/
theorem hostStep_answers (acc : HostAccess) (s : State) : ∃ t, hostStep acc s = .next t := by
  rcases hostStep_next acc s with ⟨-, _, -, hnext⟩ | ⟨_, _, _, -, -, -, hnext⟩ <;> exact ⟨_, hnext⟩

/-- Every agent's step of a legal machine answers a next state. -/
theorem runEvent_answers {s : State} (h : s.Legal) (e : Event) : ∃ t, runEvent e s = .next t := by
  cases e with
  | host acc => exact hostStep_answers acc s
  | core draw => exact coreStep_answers h draw
  | hostLoad | hostStore | controller | platform | select | reset => exact ⟨_, rfl⟩

/-- Settles O44: only the core's step can stop, and a legal controller sends no request that stops it. -/
theorem legalMachineNeverStops : Obligations.LegalMachineNeverStops := by
  intro s h
  cases hinbox : s.inbox with
  | nil => exact ⟨s, by rw [step, hinbox]⟩
  | cons e rest =>
    rw [step_of_inbox hinbox]
    exact runEvent_answers (s := { s with inbox := rest }) h e

end Sys2Proof.Machine
end

section
/-! PROOFS. The obligations of spec/40_block_ops.md on the recurrence alone: the datapath (O35), the round trip (O36,
O37), the committed IV (O38) and the first difference (O40). -/

namespace Sys2Proof.Machine

/-! ### The datapath (R77 to R79, R83) -/

/-- Lane `k` of `xor16` reads lane `k` of its two blocks and no other (R77). -/
theorem xor16_get (a b : Block) (k : Fin 16) : (xor16 a b).get k = a.get k ^^^ b.get k := by
  simp [xor16, Vector.get_eq_getElem]

/-- Two blocks with equal bytes at each of the sixteen positions are equal. -/
theorem block_ext {a b : Block} (h : ∀ k, a.get k = b.get k) : a = b :=
  Vector.ext fun k hk => h ⟨k, hk⟩

theorem xor16_comm (a b : Block) : xor16 a b = xor16 b a :=
  block_ext fun k => by rw [xor16_get, xor16_get, BitVec.xor_comm]

theorem xor16_assoc (a b c : Block) : xor16 (xor16 a b) c = xor16 a (xor16 b c) :=
  block_ext fun k => by rw [xor16_get, xor16_get, xor16_get, xor16_get, BitVec.xor_assoc]

/-- Each block is its own inverse (R83). -/
@[simp] theorem xor16_self (a : Block) : xor16 a a = zeroBlock :=
  block_ext fun k => by rw [xor16_get, BitVec.xor_self]; simp [zeroBlock, Vector.get_eq_getElem]

/-- `00*16` is the identity (R83). -/
@[simp] theorem xor16_zeroBlock (a : Block) : xor16 a zeroBlock = a :=
  block_ext fun k => by rw [xor16_get]; simp [zeroBlock, Vector.get_eq_getElem]

/-- A block xor-ed twice with the same block is what it was (R83). -/
@[simp] theorem xor16_cancel (a b : Block) : xor16 (xor16 a b) b = a := by
  rw [xor16_assoc, xor16_self, xor16_zeroBlock]

theorem xor16_right_injective {a b c : Block} (h : xor16 a c = xor16 b c) : a = b := by
  rw [← xor16_cancel a c, h, xor16_cancel]

/-- Settles O35: the laws of `xor16`, proved lane by lane; the two steps are built from it as R78 and R79 say. -/
theorem datapathFunctions : Obligations.DatapathFunctions := fun _ a b c =>
  ⟨xor16_get a b, xor16_self a, xor16_zeroBlock a, xor16_comm a b, xor16_assoc a b c, xor16_cancel a b,
    rfl, rfl, rfl, rfl⟩

/-! ### A chaining step over each block (R80, R81) -/

section ChainRun
variable (f : Chain → Block → StepResult) (c : Chain)

/-- A run over two parts goes on in the second from the pair that the first leaves. -/
theorem chainRun_append (as bs : List Block) :
    chainRun f c (as ++ bs) =
      ⟨(chainRun f c as).outs ++ (chainRun f (chainRun f c as).last bs).outs,
        (chainRun f (chainRun f c as).last bs).last⟩ := by
  induction as generalizing c with
  | nil => rfl
  | cons a as ih => simp only [List.cons_append, chainRun, ih]

@[simp] theorem chainRun_outs_length (bs : List Block) : (chainRun f c bs).outs.length = bs.length := by
  induction bs generalizing c with
  | nil => rfl
  | cons b bs ih => simp only [chainRun, List.length_cons, ih]

/-- The first output blocks come from the first input blocks alone. -/
theorem chainRun_outs_take (bs : List Block) (i : Nat) :
    (chainRun f c bs).outs.take i = (chainRun f c (bs.take i)).outs := by
  induction bs generalizing c i with
  | nil => simp only [List.take_nil, chainRun]
  | cons b bs ih =>
    cases i with
    | zero => rfl
    | succ i => simp only [List.take_succ_cons, chainRun, ih]

/-- The output block after a first part is the step's, from the pair that the first part leaves. -/
theorem chainRun_outs_getElem?_length (pre bs : List Block) (b : Block) :
    (chainRun f c (pre ++ b :: bs)).outs[pre.length]? = some (f (chainRun f c pre).last b).out := by
  rw [chainRun_append, List.getElem?_append_right (chainRun_outs_length f c pre).le, chainRun_outs_length,
    Nat.sub_self]
  rfl

/-- A run over one block more takes one step from the pair it has reached. -/
theorem chainRun_concat (bs : List Block) (b : Block) :
    chainRun f c (bs ++ [b]) =
      ⟨(chainRun f c bs).outs ++ [(f (chainRun f c bs).last b).out], (f (chainRun f c bs).last b).next⟩ :=
  chainRun_append f c bs [b]

end ChainRun

/-! ### Decryption undoes encryption (R84, R85) -/

/-- A decryption step on an encrypted block, from the same pair, gives the plaintext block and the same next pair. -/
theorem decStep_encStep {enc dec : Block → Block} (hinv : ∀ b, dec (enc b) = b) (c : Chain) (p : Block) :
    decStep dec c (encStep enc c p).out = ⟨p, (encStep enc c p).next⟩ := by
  simp [decStep, encStep, hinv]

/-- Decrypting an encrypted message, from the same pair, gives the plaintext and ends at the same pair. -/
theorem chainRun_decStep_encStep {enc dec : Block → Block} (hinv : ∀ b, dec (enc b) = b) (c : Chain)
    (ps : List Block) :
    chainRun (decStep dec) c (chainRun (encStep enc) c ps).outs = ⟨ps, (chainRun (encStep enc) c ps).last⟩ := by
  induction ps generalizing c with
  | nil => rfl
  | cons p ps ih => simp only [chainRun, decStep_encStep hinv, ih]

/-- Settles O36: the first `i` ciphertext blocks encrypt the first `i` plaintext blocks, and decryption ends at the same
pair. -/
theorem decryptionRetracesTheChain : Obligations.DecryptionRetracesTheChain := by
  intro E D v key iv ps hinv hkey i _
  rw [chainRun_outs_take, chainRun_decStep_encStep fun b => hinv v key b hkey]

/-- Settles O37: the output blocks by the run, the IV because a decryption commits nothing. -/
theorem decryptionUndoesEncryption : Obligations.DecryptionUndoesEncryption := by
  intro E D v key iv ps hinv hkey
  have hrun := chainRun_decStep_encStep (fun b => hinv v key b hkey) iv ps
  exact congrArg (fun r : RunResult => TransformResult.mk r.outs iv) hrun

/-! ### The committed IV (R82, R87) -/

/-- Settles O38: the run ends with the step over the last block, which leaves that block and its ciphertext. -/
theorem committedIv : Obligations.CommittedIv := by
  intro f iv bs b
  have hiv : (igeEnc f iv (bs ++ [b])).iv = (chainRun (encStep f) iv (bs ++ [b])).last := by
    simp [igeEnc, commitChain]
  have hlast := chainRun_concat (encStep f) iv bs b
  refine ⟨?plain, ?cipher, rfl, rfl, rfl⟩
  case plain =>
    rw [hiv, hlast]
    rfl
  case cipher =>
    rw [hiv, igeEnc, hlast, List.getLast?_concat]
    rfl

/-! ### The first difference (R86) -/

/-- Two messages with the same first part have outputs with the same first part; when the step's output tells the next
blocks apart, the outputs differ there. -/
theorem chainRun_first_difference {f : Chain → Block → StepResult}
    (hf : ∀ c a b, (f c a).out = (f c b).out → a = b) (c : Chain) (pre ps qs : List Block) {p q : Block}
    (hpq : p ≠ q) :
    (chainRun f c (pre ++ p :: ps)).outs.take pre.length = (chainRun f c (pre ++ q :: qs)).outs.take pre.length ∧
    (chainRun f c (pre ++ p :: ps)).outs[pre.length]? ≠ (chainRun f c (pre ++ q :: qs)).outs[pre.length]? := by
  constructor
  · simp only [chainRun_outs_take, List.take_left]
  · rw [chainRun_outs_getElem?_length, chainRun_outs_getElem?_length]
    exact fun h => hpq (hf _ p q (Option.some.inj h))

/-- The encryption step from a given pair is injective when the cipher is. -/
theorem encStep_out_injective {f : Block → Block} (hf : ∀ a b, f a = f b → a = b) (c : Chain) (a b : Block)
    (h : (encStep f c a).out = (encStep f c b).out) : a = b :=
  xor16_right_injective (hf _ _ (xor16_right_injective h))

/-- The decryption step from a given pair is injective when the cipher is. -/
theorem decStep_out_injective {f : Block → Block} (hf : ∀ a b, f a = f b → a = b) (c : Chain) (a b : Block)
    (h : (decStep f c a).out = (decStep f c b).out) : a = b :=
  xor16_right_injective (hf _ _ (xor16_right_injective h))

/-- There are finitely many blocks: a block is sixteen numbers below 256. -/
theorem block_finite : Finite Block :=
  Finite.of_injective (fun (b : Block) (k : Fin 16) => (b.get k).toFin) fun _ _ h =>
    block_ext fun k => BitVec.toFin_inj.mp (congrFun h k)

/-- A function on blocks that undoes another is injective too: the other hits every block, there being finitely many. -/
theorem injective_of_undoes {enc dec : Block → Block} (h : Function.LeftInverse dec enc) :
    Function.Injective dec := by
  have hfinite : Finite Block := block_finite
  have hsurjective : Function.Surjective enc := Finite.surjective_of_injective h.injective
  exact (h.rightInverse_of_surjective hsurjective).injective

/-- Settles O40: the two steps tell blocks apart, and under `InvLaw` `D` undoes `E`. -/
theorem firstDifferenceShows : Obligations.FirstDifferenceShows := by
  refine ⟨?outputs, ?injective⟩
  case outputs =>
    intro f iv pre ps qs p q hf hpq
    obtain ⟨hagree, hdiffer⟩ := chainRun_first_difference (encStep_out_injective hf) iv pre ps qs hpq
    exact ⟨hagree, hdiffer, chainRun_first_difference (decStep_out_injective hf) iv pre ps qs hpq⟩
  case injective =>
    intro E D v key a b hinv hkey
    have hundoes : Function.LeftInverse (D v key) (E v key) := fun b => hinv v key b hkey
    exact ⟨fun h => hundoes.injective h, fun h => injective_of_undoes hundoes h⟩

end Sys2Proof.Machine
end

section
/-! PROOFS. The five steps of a block, one after the other, make one chaining step of spec/40_block_ops.md (R78, R79;
spec/41_sequencer.md R95 to R98): the lemmas for whole messages. -/

namespace Sys2Proof.Machine

/-! ### What the configuration decides (R28, R67, R69, R73) -/

theorem Ctl.ConfigKept.trans {c d e : Ctl} (h : c.ConfigKept d) (h' : d.ConfigKept e) : c.ConfigKept e :=
  ⟨h'.dir.trans h.dir, h'.ie.trans h.ie, h'.length.trans h.length, h'.srcAddr.trans h.srcAddr,
    h'.dstAddr.trans h.dstAddr, h'.keyLen.trans h.keyLen, h'.key.trans h.key⟩

theorem Ctl.ConfigKept.nBlocks {c d : Ctl} (h : c.ConfigKept d) : d.nBlocks = c.nBlocks := by
  rw [Ctl.nBlocks, Ctl.nBlocks, h.length]

/-- The block function is that of the configuration (R67, R73). -/
theorem Ctl.ConfigKept.blockFn {c d : Ctl} (h : c.ConfigKept d) : d.blockFn = c.blockFn := by
  funext b
  simp only [Ctl.blockFn, Ctl.keyBytes, h.keyLen, h.key, h.dir]

/-- The chaining step is that of the configuration (R73). -/
theorem Ctl.ConfigKept.chainStepFrom {c d : Ctl} (h : c.ConfigKept d) : d.chainStepFrom = c.chainStepFrom := by
  funext p b
  simp only [Ctl.chainStepFrom, h.blockFn, h.dir]

/-! ### The answer of a core that is keyed for the transform (R109, R112, R113) -/

/-- The core holds the variant and the key of the transform's configuration (R109, R116). -/
structure Ctl.CoreKeyed (c : Ctl) : Prop where
  valid : c.keyLenValid = true
  variant : c.cv = variantOfKeyLen c.keyLen.toNat
  key : c.ck = some c.keyBytes

/-- A legal controller whose core tracks it has a keyed core before each block. -/
theorem Ctl.Tracks.coreKeyed {c : Ctl} (h : c.Tracks) (hlegal : c.Legal) (hq : c.seq = .processing)
    (hp : c.ph = .fetch) : c.CoreKeyed where
  valid := (hlegal.of_open (hlegal.open_of_processing hq)).2.2
  variant := h.opened (hlegal.open_of_processing hq) (by rw [hp]; nofun)
  key := h.keyed hq

/-- A keyed core stays so while the configuration and what the core holds are kept. -/
theorem Ctl.CoreKeyed.of_kept {c d : Ctl} (h : c.CoreKeyed) (hkept : c.ConfigKept d) (hcv : d.cv = c.cv)
    (hck : d.ck = c.ck) : d.CoreKeyed := by
  constructor
  · rw [Ctl.keyLenValid, hkept.keyLen]
    exact h.valid
  · rw [hcv, hkept.keyLen]
    exact h.variant
  · rw [hck, Ctl.keyBytes, hkept.key, hkept.keyLen]
    exact h.key

/-- Each key length that the hardware accepts names a variant (R67). -/
theorem variantOfKeyLen_of_valid {n : Nat} (h : keyLengthOk n = true) : ∃ v, variantOfKeyLen n = some v := by
  simp only [keyLengthOk, Bool.or_eq_true, beq_iff_eq] at h
  obtain (rfl | rfl) | rfl := h
  exacts [⟨.v128, rfl⟩, ⟨.v192, rfl⟩, ⟨.v256, rfl⟩]

/-- A keyed core that answers `ok` gives the block function of the transform. -/
theorem Ctl.CoreKeyed.cipherData {c : Ctl} (h : c.CoreKeyed) (hok : c.draw.ok = true) (t : Block) :
    c.cipherData (sel c.dir Config.E Config.D) t = c.blockFn t := by
  obtain ⟨v, hv⟩ := variantOfKeyLen_of_valid h.valid
  have hcv : c.cv = some v := h.variant.trans hv
  simp only [Ctl.cipherData, Ctl.blockFn, hok, hcv, h.key, hv, if_true]
  cases c.dir <;> rfl

/-- The two cipher requests differ in the block function alone (R112, R113). -/
theorem exec_cipher (dir : Bool) (t : Block) (s : State) :
    exec (if dir then .coreEnc t else .coreDec t) s =
      .next (s.mapCtl fun c =>
        (c.coreAnswer c.draw.ok (c.cipherData (sel dir Config.E Config.D) t)).refreshIrq) := by
  cases dir <;> rfl

/-! ### The steps of a block (R95 to R98) -/

/-- The controller after a fetch that was accepted (R95). -/
def Ctl.fetched (b : Block) (c : Ctl) : Ctl :=
  Ctl.refreshIrq { c with inBlk := b, ph := .cipher }

/-- The controller after its cipher request for the block (R96). -/
def Ctl.issued (b : Block) (c : Ctl) : Ctl :=
  (c.fetched b).issueCipher.refreshIrq

/-- The controller after its core has answered the request `ok` (R108, R112, R113). -/
def Ctl.answered (b : Block) (draw : CoreDraw) (c : Ctl) : Ctl :=
  Ctl.refreshIrq (Ctl.coreAnswer true ((c.issued b).blockFn (c.issued b).cipherInput)
    { c.issued b with draw := draw })

/-- The controller about to write the output block of an input block (R97). -/
def Ctl.atWrite (b : Block) (draw : CoreDraw) (c : Ctl) : Ctl :=
  Ctl.refreshIrq { c with
    inBlk := b, outBlk := (c.chainStep b).out, ph := .write, corePending := false, coreReq := none
    coreResp := none, draw := draw }

/-- All sixteen byte accesses of a block are accepted, and none races (R46, R55, R159). -/
def State.blockUsable (s : State) (base : Addr) (kind : AccessKind) : Prop :=
  ∀ k, s.memOk (byteAddr base k) kind = true ∧ s.contested (byteAddr base k) = false

@[simp] theorem memoryBlock_get (s : State) (base : Addr) (k : Fin 16) :
    (memoryBlock s base).get k = s.byteAt (byteAddr base k) := by
  simp [memoryBlock, Vector.get_eq_getElem]

/-- All sixteen reads accepted and none racing: the block fetched is the one in memory (R46, R95). -/
theorem State.controllerStep_fetch {s : State} (any : Block) (hq : s.ctl.seq = .processing) (hp : s.ctl.ph = .fetch)
    (hread : s.blockUsable s.ctl.inputAddr .read) :
    s.controllerStep any = s.mapCtl (Ctl.fetched (memoryBlock s s.ctl.inputAddr)) := by
  obtain ⟨b, hb, hbytes⟩ := State.readBlock_accepted (any := any) fun k => (hread k).1
  have hblock : b = memoryBlock s s.ctl.inputAddr := block_ext fun k => by
    rw [hbytes, State.portByte, if_neg (by simp [(hread k).2]), memoryBlock_get]
  subst hblock
  simp only [State.controllerStep, State.sequence, hq, hp, State.fetch, hb, State.mapCtl_mapCtl]
  rfl

/-- The cipher request goes out (R96). -/
theorem State.controllerStep_cipher {s : State} (any : Block) (hq : s.ctl.seq = .processing)
    (hp : s.ctl.ph = .cipher) : s.controllerStep any = s.mapCtl fun c => c.issueCipher.refreshIrq := by
  simp only [State.controllerStep, State.sequence, hq, hp, State.mapCtl_mapCtl]

/-- A keyed core answers the cipher request with the block function of the block sent (R108, R112, R113). -/
theorem coreStep_cipher {s : State} {draw : CoreDraw} (hkeyed : s.ctl.CoreKeyed) (hok : draw.ok = true)
    (hpending : s.ctl.corePending = true) (hresp : s.ctl.coreResp = none)
    (hreq : s.ctl.coreReq = some (sel s.ctl.dir (encRequest s.ctl.cipherInput) (decRequest s.ctl.cipherInput))) :
    coreStep draw s = .next (s.mapCtl fun c =>
      (Ctl.coreAnswer true (c.blockFn c.cipherInput) { c with draw := draw }).refreshIrq) := by
  have hdrawn : Ctl.CoreKeyed { s.ctl with draw := draw } := { hkeyed with }
  have hdata := hdrawn.cipherData hok s.ctl.cipherInput
  have hexec := exec_cipher s.ctl.dir s.ctl.cipherInput (s.mapCtl fun c => { c with draw := draw })
  simp only [State.mapCtl, hdata, hok] at hexec
  rw [coreStep_of_decodeCore hpending hreq hresp (decodeCore_cipherRequest _ _)]
  exact hexec

/-- The cipher response is taken (R97). -/
theorem State.controllerStep_cipherWait {s : State} {r : CoreResp} (any : Block) (hq : s.ctl.seq = .processing)
    (hp : s.ctl.ph = .cipherWait) (hr : s.ctl.coreResp = some r) :
    s.controllerStep any = s.mapCtl fun c => (c.takeCipher r).refreshIrq := by
  simp only [State.controllerStep, State.sequence, hq, hp, State.onResponse, hr, State.mapCtl_mapCtl]

/-- The two XORs around the block function make the chaining step (R73, R78, R79). -/
theorem Ctl.chainStep_out (c : Ctl) (b : Block) :
    (c.chainStep b).out = xor16 (c.blockFn (xor16 b c.preHalf)) c.postHalf := by
  simp only [Ctl.chainStep, Ctl.chainStepFrom, Ctl.postHalf, Ctl.preHalf, Ctl.chain]
  cases c.dir <;> rfl

/-- The block function of the block sent, xor-ed with the other half, is the chaining step's output (R96, R97). -/
theorem Ctl.issued_out (b : Block) (c : Ctl) :
    xor16 ((c.issued b).blockFn (c.issued b).cipherInput) c.postHalf = (c.chainStep b).out := by
  have hkept : c.ConfigKept (c.issued b) := ⟨rfl, rfl, rfl, rfl, rfl, rfl, rfl⟩
  rw [hkept.blockFn, Ctl.chainStep_out]
  rfl

/-- The second XOR, once the answer is there, gives the chaining step's output block (R97). -/
theorem Ctl.takeCipher_answered (b : Block) (draw : CoreDraw) (c : Ctl) :
    (Ctl.takeCipher ⟨true, (c.issued b).blockFn (c.issued b).cipherInput⟩ (c.answered b draw)).refreshIrq =
      c.atWrite b draw := by
  rw [Ctl.atWrite, ← Ctl.issued_out, Ctl.answered]
  generalize (c.issued b).blockFn (c.issued b).cipherInput = data
  simp [Ctl.takeCipher, Ctl.postHalf, Ctl.issued, Ctl.fetched, Ctl.issueCipher, Ctl.sendRequest,
    Ctl.coreAnswer, Ctl.consume, Ctl.refreshIrq]

/-- The machine with another selected controller and schedule. -/
def State.resume (s : State) (c : Ctl) (es : List Event) : State :=
  { s with ctl := c, inbox := es }

section Steps
variable {s : State} (any b : Block) (draw : CoreDraw) (es : List Event)

theorem step_fetch (hq : s.ctl.seq = .processing) (hp : s.ctl.ph = .fetch)
    (hread : s.blockUsable s.ctl.inputAddr .read) (hinbox : s.inbox = .controller any :: es) :
    step s = .next (s.resume (s.ctl.fetched (memoryBlock s s.ctl.inputAddr)) es) :=
  (step_of_inbox hinbox).trans (congrArg Host.Outcome.next (State.controllerStep_fetch any hq hp hread))

theorem step_fetched (hq : s.ctl.seq = .processing) :
    step (s.resume (s.ctl.fetched b) (.controller any :: es)) = .next (s.resume (s.ctl.issued b) es) :=
  congrArg Host.Outcome.next (State.controllerStep_cipher (s := s.resume (s.ctl.fetched b) es) any hq rfl)

theorem step_issued (hslot : s.ctl.coreResp = none) (hkeyed : s.ctl.CoreKeyed) (hok : draw.ok = true) :
    step (s.resume (s.ctl.issued b) (.core draw :: es)) = .next (s.resume (s.ctl.answered b draw) es) :=
  coreStep_cipher (s := s.resume (s.ctl.issued b) es) { hkeyed with } hok rfl hslot rfl

theorem step_answered (hq : s.ctl.seq = .processing) :
    step (s.resume (s.ctl.answered b draw) (.controller any :: es)) = .next (s.resume (s.ctl.atWrite b draw) es) := by
  rw [← Ctl.takeCipher_answered]
  exact congrArg Host.Outcome.next
    (State.controllerStep_cipherWait (s := s.resume (s.ctl.answered b draw) es) any hq rfl rfl)

end Steps

/-- The fetch, the request, the answer and the second XOR of one block (R95 to R97). -/
theorem run_to_write {s : State} {any : Block} {draw : CoreDraw} {rest : List Event} (hslot : s.ctl.coreResp = none)
    (hkeyed : s.ctl.CoreKeyed) (hq : s.ctl.seq = .processing) (hp : s.ctl.ph = .fetch) (hok : draw.ok = true)
    (hread : s.blockUsable s.ctl.inputAddr .read)
    (hinbox : s.inbox = blockSchedule any draw ++ rest) :
    core.run 4 s = .next
      (s.resume (s.ctl.atWrite (memoryBlock s s.ctl.inputAddr) draw) (.controller any :: rest)) := by
  simp only [blockSchedule, List.cons_append, List.nil_append] at hinbox
  rw [run_succ (step_fetch _ _ hq hp hread hinbox), run_succ (step_fetched _ _ _ hq),
    run_succ (step_issued _ _ _ hslot hkeyed hok), run_succ (step_answered _ _ _ _ hq), run_zero]

/-- The write step reaches memory as its block write does (R98). -/
theorem State.writeOut_mem (s : State) (any : Block) :
    (s.writeOut any).mem = (s.writeBlock s.ctl.outputAddr s.ctl.outBlk any).1.mem := by
  unfold State.writeOut
  split <;> next t h => rw [h]; rfl

/-- Memory after the write step is memory after its block write (R98). -/
theorem State.controllerStep_write_byteAt {s : State} (any : Block) (hq : s.ctl.seq = .processing)
    (hp : s.ctl.ph = .write) (a : Addr) :
    (s.controllerStep any).byteAt a =
      (s.writeBytes s.ctl.outputAddr s.ctl.outBlk any blockPositions).1.byteAt a := by
  rw [State.controllerStep_write any hq hp, State.mapCtl_byteAt]
  exact congrArg (memGet · a.toNat) (s.writeOut_mem any)

/-- All sixteen writes accepted: the block is counted (R98). -/
theorem State.controllerStep_write_ctl {s : State} (any : Block) (hq : s.ctl.seq = .processing)
    (hp : s.ctl.ph = .write) (hok : ∀ k, s.memOk (byteAddr s.ctl.outputAddr k) .write = true) :
    (s.controllerStep any).ctl = s.ctl.finishBlock.refreshIrq := by
  rw [State.controllerStep_write any hq hp, State.mapCtl_ctl, State.writeOut_ctl_eq,
    if_pos (List.all_eq_true.mpr fun k _ => hok k)]

/-- All sixteen writes accepted and none racing: the output block stands in memory (R46, R98). -/
theorem State.controllerStep_write_block {s : State} (any : Block) (hq : s.ctl.seq = .processing)
    (hp : s.ctl.ph = .write) (hm : s.mem.wf = true)
    (hwrite : s.blockUsable s.ctl.outputAddr .write) :
    memoryBlock (s.controllerStep any) s.ctl.outputAddr = s.ctl.outBlk := by
  obtain ⟨-, hbytes⟩ := State.writeBytes_accepted (blk := s.ctl.outBlk) (any := any) hm
    (by decide : blockPositions.Nodup) fun k _ => (hwrite k).1
  refine block_ext fun k => ?_
  have hk := hbytes k (mem_blockPositions k)
  rw [State.storedByte, if_neg (by simp [(hwrite k).2])] at hk
  rw [memoryBlock_get, s.controllerStep_write_byteAt any hq hp, hk]

/-- The write step changes no byte outside its block (R52, R98). -/
theorem State.controllerStep_write_kept {s : State} (any : Block) (hq : s.ctl.seq = .processing)
    (hp : s.ctl.ph = .write) (hm : s.mem.wf = true) {a : Addr} (ha : ¬ blockCovers s.ctl.outputAddr a) :
    (s.controllerStep any).byteAt a = s.byteAt a :=
  (s.controllerStep_write_byteAt any hq hp a).trans (State.writeBytes_outside hm fun k _ hk => ha ⟨k, hk⟩)

/-- What the five steps of a block leave, with every access accepted, no byte racing and an answer `ok`. -/
structure State.BlockDone (draw : CoreDraw) (s t : State) : Prop where
  ctl : t.ctl = (s.ctl.atWrite (memoryBlock s s.ctl.inputAddr) draw).finishBlock.refreshIrq
  written : memoryBlock t s.ctl.outputAddr = (s.ctl.chainStep (memoryBlock s s.ctl.inputAddr)).out
  kept : ∀ a, ¬ blockCovers s.ctl.outputAddr a → t.byteAt a = s.byteAt a
  memOk : ∀ a kind, t.memOk a kind = s.memOk a kind
  contested : ∀ a, t.contested a = s.contested a

/-- The five steps of a block (R95 to R98). -/
theorem run_block {s : State} {any : Block} {draw : CoreDraw} {rest : List Event} (hslot : s.ctl.coreResp = none)
    (hkeyed : s.ctl.CoreKeyed) (hm : s.mem.wf = true) (hq : s.ctl.seq = .processing) (hp : s.ctl.ph = .fetch)
    (hok : draw.ok = true)
    (hread : s.blockUsable s.ctl.inputAddr .read)
    (hwrite : s.blockUsable s.ctl.outputAddr .write)
    (hinbox : s.inbox = blockSchedule any draw ++ rest) :
    ∃ t, core.run 5 s = .next t ∧ t.inbox = rest ∧ s.BlockDone draw t := by
  have hrun := run_to_write hslot hkeyed hq hp hok hread hinbox
  refine ⟨(s.resume (s.ctl.atWrite (memoryBlock s s.ctl.inputAddr) draw) rest).controllerStep any,
    ?run, ?inbox, ?done⟩
  case run => exact (run_add (k := 1) hrun).trans ((run_succ rfl).trans (run_zero _))
  case inbox => exact (State.controllerStep_rest _ any).2.2.1
  case done =>
    exact {
      ctl := State.controllerStep_write_ctl any hq rfl fun k => (hwrite k).1
      written := State.controllerStep_write_block any hq rfl hm hwrite
      kept := fun a ha => State.controllerStep_write_kept
        (s := s.resume (s.ctl.atWrite (memoryBlock s s.ctl.inputAddr) draw) rest) any hq rfl hm ha
      memOk := fun a kind => State.controllerStep_memOk _ any a kind
      contested := fun a => State.controllerStep_contested _ any a }

/-! ### What a block leaves of the controller -/

section BlockDone
variable {s t : State} {draw : CoreDraw} (h : s.BlockDone draw t)
include h

theorem State.BlockDone.configKept : s.ctl.ConfigKept t.ctl := by
  constructor <;> simp [h.ctl, Ctl.atWrite]

theorem State.BlockDone.iv : t.ctl.iv = s.ctl.iv := by
  simp [h.ctl, Ctl.atWrite]

theorem State.BlockDone.err : t.ctl.err = s.ctl.err := by
  simp [h.ctl, Ctl.atWrite]

theorem State.BlockDone.blkcnt : t.ctl.blkcnt = s.ctl.blkcnt + 1#32 := by
  simp [h.ctl, Ctl.atWrite]

/-- `WX` and `WY` hold the chaining step's pair (R98). -/
theorem State.BlockDone.chain :
    t.ctl.chain = (s.ctl.chainStep (memoryBlock s s.ctl.inputAddr)).next := by
  simp only [Ctl.chain, h.ctl, Ctl.refreshIrq_wx, Ctl.refreshIrq_wy, Ctl.finishBlock_wx, Ctl.finishBlock_wy,
    Ctl.atWrite, Ctl.refreshIrq_dir, Ctl.refreshIrq_inBlk, Ctl.refreshIrq_outBlk, Ctl.chainStep, Ctl.chainStepFrom]
  cases s.ctl.dir <;> rfl

end BlockDone

end Sys2Proof.Machine
end

section
/-! PROOFS. The controller computes the recurrence over a whole message (O58; spec/40_block_ops.md R80, R81,
spec/20_memory.md R52, R60): an invariant between two blocks, and what the blocks so far have left. -/

namespace Sys2Proof.Machine

/-! ### Between two blocks (R94, R98) -/

/-- A controller that is about to fetch its next block, or to release the core when none is left (R94, R98). -/
def Ctl.BetweenBlocks (c : Ctl) : Prop :=
  if c.blkcnt = c.nBlocks then c.seq = .closing ∧ c.ph = .close else c.seq = .processing ∧ c.ph = .fetch

/-- After a block's write the controller is between two blocks. -/
theorem Ctl.finishBlock_betweenBlocks (c : Ctl) (hq : c.seq = .processing) :
    c.finishBlock.refreshIrq.BetweenBlocks := by
  by_cases hlast : c.blkcnt + 1#32 = c.length >>> 4
  · simp [Ctl.BetweenBlocks, Ctl.finishBlock, Ctl.nBlocks, hlast]
  · simp [Ctl.BetweenBlocks, Ctl.finishBlock, Ctl.nBlocks, hlast, hq]

/-- The machine between two blocks of a transform that has not failed, whose core is keyed, whose accesses go through,
and whose output does not start inside its input. -/
structure State.MidMessage (s : State) : Prop where
  legal : s.Legal
  mem : s.mem.wf = true
  keyed : s.ctl.CoreKeyed
  err : s.ctl.err = .none
  position : s.ctl.BetweenBlocks
  usable : rangesUsable s s.ctl.nBlocks.toNat
  overlap : s.ctl.dstAddr = s.ctl.srcAddr ∨ 16 * s.ctl.nBlocks.toNat ≤ (s.ctl.dstAddr - s.ctl.srcAddr).toNat

/-- What every step keeps, a run keeps. -/
theorem run_keeps {P : State → Prop} (hstep : ∀ s t, P s → step s = .next t → P t) {k : Nat} {s t : State}
    (h : P s) (hrun : core.run k s = .next t) : P t := by
  induction k generalizing s with
  | zero =>
    cases hrun
    exact h
  | succ k ih =>
    simp only [Host.Core.run] at hrun
    split at hrun
    · next u hu => exact ih (hstep s u h hu) hrun
    · cases hrun
    · cases hrun

/-- Usable ranges stay so while the platform and the races are what they were. -/
theorem rangesUsable_of_kept {s t : State} {n : Nat} (h : rangesUsable s n) (hkept : s.ctl.ConfigKept t.ctl)
    (hmemOk : ∀ a kind, t.memOk a kind = s.memOk a kind) (hcontested : ∀ a, t.contested a = s.contested a) :
    rangesUsable t n := by
  simpa only [rangesUsable, hkept.srcAddr, hkept.dstAddr, hmemOk, hcontested] using h

/-- A block leads from one point between blocks to the next. -/
theorem State.MidMessage.block {s t : State} {draw : CoreDraw} (h : s.MidMessage) (hq : s.ctl.seq = .processing)
    (hrun : core.run 5 s = .next t) (hdone : s.BlockDone draw t) : t.MidMessage := by
  have hkept : s.ctl.ConfigKept t.ctl := hdone.configKept
  exact {
    legal := run_keeps stepKeepsLegal h.legal hrun
    mem := run_keeps stepKeepsMemoryCanonical h.mem hrun
    keyed := h.keyed.of_kept hkept (by simp [hdone.ctl, Ctl.atWrite]) (by simp [hdone.ctl, Ctl.atWrite])
    err := hdone.err.trans h.err
    position := by
      rw [hdone.ctl]
      exact Ctl.finishBlock_betweenBlocks _ hq
    usable := by
      rw [hkept.nBlocks]
      exact rangesUsable_of_kept h.usable hkept hdone.memOk hdone.contested
    overlap := by
      rw [hkept.nBlocks, hkept.srcAddr, hkept.dstAddr]
      exact h.overlap }

/-! ### Addresses of the ranges (R43, R49, R60) -/

/-- Where byte `k` of block `j` lies in a range of memory. -/
theorem byteAddr_block_offset (base : Addr) {j : Nat} (hj : 16 * (j + 1) ≤ 2 ^ 32) (k : Fin 16) :
    (byteAddr (base + 16#32 * BitVec.ofNat 32 j) k - base).toNat = 16 * j + k.val := by
  have hk := k.isLt
  have hb := base.isLt
  rw [BitVec.toNat_sub, byteAddr_toNat, BitVec.toNat_add, BitVec.toNat_mul, BitVec.toNat_ofNat]
  simp only [BitVec.toNat_ofNat]
  omega

/-- A byte of a range lies in block `j` exactly when its offset does. -/
theorem blockCovers_block_iff (base a : Addr) {j : Nat} (hj : 16 * (j + 1) ≤ 2 ^ 32) :
    blockCovers (base + 16#32 * BitVec.ofNat 32 j) a ↔
      16 * j ≤ (a - base).toNat ∧ (a - base).toNat < 16 * (j + 1) := by
  have ha := a.isLt
  have hb := base.isLt
  rw [blockCovers_iff, BitVec.toNat_sub, BitVec.toNat_sub, BitVec.toNat_add, BitVec.toNat_mul, BitVec.toNat_ofNat]
  simp only [BitVec.toNat_ofNat]
  omega

/-- An output that is the input, or does not start inside it, leaves the input block `j` alone before block `j` is
processed (R60). -/
theorem inputByte_after_outputs {src dst : Addr} {n j : Nat} (hoverlap : dst = src ∨ 16 * n ≤ (dst - src).toNat)
    (hn : 16 * n ≤ 2 ^ 32) (hj : j < n) (k : Fin 16) :
    16 * j ≤ (byteAddr (src + 16#32 * BitVec.ofNat 32 j) k - dst).toNat := by
  have hoffset := byteAddr_block_offset src (j := j) (by omega) k
  generalize byteAddr (src + 16#32 * BitVec.ofNat 32 j) k = a at hoffset ⊢
  rcases hoverlap with rfl | hapart
  · omega
  · have hs := src.isLt
    have hd := dst.isLt
    have ha := a.isLt
    have hk := k.isLt
    rw [BitVec.toNat_sub] at hoffset hapart ⊢
    omega

/-! ### The blocks of a message (R80, R81) -/

/-- What the first `j` blocks of a message have left: the recurrence's output blocks and chaining pair, the count, and
every byte outside the output written so far. -/
structure State.BlocksDone (s : State) (j : Nat) (t : State) : Prop where
  config : s.ctl.ConfigKept t.ctl
  iv : t.ctl.iv = s.ctl.iv
  count : t.ctl.blkcnt = BitVec.ofNat 32 j
  run : chainRun s.ctl.chainStepFrom s.ctl.chain (inputBlocks s j) =
    ⟨(List.range j).map (outputBlock t), t.ctl.chain⟩
  kept : ∀ a, 16 * j ≤ (a - s.ctl.dstAddr).toNat → t.byteAt a = s.byteAt a

theorem inputBlocks_succ (s : State) (j : Nat) :
    inputBlocks s (j + 1) = inputBlocks s j ++ [memoryBlock s (s.ctl.srcAddr + 16#32 * BitVec.ofNat 32 j)] := by
  rw [inputBlocks, List.range_succ, List.map_append]
  rfl

/-- Two machines whose memories agree on the sixteen bytes of a block hold the same block there. -/
theorem memoryBlock_congr {s t : State} {base : Addr}
    (h : ∀ k, t.byteAt (byteAddr base k) = s.byteAt (byteAddr base k)) : memoryBlock t base = memoryBlock s base :=
  block_ext fun k => by rw [memoryBlock_get, memoryBlock_get, h k]

/-- Before its first block a message has left nothing. -/
theorem State.blocksDone_zero {s : State} (hcount : s.ctl.blkcnt = 0#32) : s.BlocksDone 0 s where
  config := .refl s.ctl
  iv := rfl
  count := hcount
  run := rfl
  kept := fun _ _ => rfl

section OneMore
variable {s t u : State} {draw : CoreDraw} {j : Nat}

/-- Block `j` changes no byte of the output range outside its own sixteen. -/
theorem State.BlockDone.kept_outside (h : s.BlockDone draw t) (hcount : s.ctl.blkcnt = BitVec.ofNat 32 j)
    (hj : 16 * (j + 1) ≤ 2 ^ 32) {a : Addr}
    (ha : (a - s.ctl.dstAddr).toNat < 16 * j ∨ 16 * (j + 1) ≤ (a - s.ctl.dstAddr).toNat) :
    t.byteAt a = s.byteAt a := by
  refine h.kept a ?_
  rw [Ctl.outputAddr, hcount, blockCovers_block_iff _ _ hj]
  omega

/-- Block `j` keeps the output blocks before it. -/
theorem State.BlockDone.outputs_kept (h : s.BlockDone draw t) (hcount : s.ctl.blkcnt = BitVec.ofNat 32 j)
    (hj : 16 * (j + 1) ≤ 2 ^ 32) : (List.range j).map (outputBlock t) = (List.range j).map (outputBlock s) := by
  refine List.map_congr_left fun i hi => ?_
  have hij : i < j := List.mem_range.mp hi
  rw [outputBlock, outputBlock, h.configKept.dstAddr]
  refine memoryBlock_congr fun k => h.kept_outside hcount hj (.inl ?_)
  rw [byteAddr_block_offset _ (by omega)]
  omega

/-- The input block `j` is still what it was at the start when its turn comes (R60). -/
theorem State.BlocksDone.input_kept (h : s.BlocksDone j t) (hmid : s.MidMessage) (hj : j < s.ctl.nBlocks.toNat) :
    memoryBlock t t.ctl.inputAddr = memoryBlock s (s.ctl.srcAddr + 16#32 * BitVec.ofNat 32 j) := by
  have hsize := s.ctl.nBlocks_le
  rw [Ctl.inputAddr, h.config.srcAddr, h.count]
  exact memoryBlock_congr fun k => h.kept _ (inputByte_after_outputs hmid.overlap (by omega) hj k)

/-- One block more (R78, R79, R98). -/
theorem State.BlocksDone.block (h : s.BlocksDone j t) (hmid : s.MidMessage) (hj : j < s.ctl.nBlocks.toNat)
    (hdone : t.BlockDone draw u) : s.BlocksDone (j + 1) u := by
  have hsize := s.ctl.nBlocks_le
  have hkept : t.ctl.ConfigKept u.ctl := hdone.configKept
  refine ⟨h.config.trans hkept, hdone.iv.trans h.iv, ?count, ?run, ?kept⟩
  case count => rw [hdone.blkcnt, h.count, ← BitVec.ofNat_add]
  case run =>
    have hnew : outputBlock u j = (t.ctl.chainStep (memoryBlock t t.ctl.inputAddr)).out := by
      rw [← hdone.written, Ctl.outputAddr, h.count, outputBlock, hkept.dstAddr]
    rw [inputBlocks_succ, chainRun_concat, h.run, ← h.input_kept hmid hj, ← h.config.chainStepFrom, List.range_succ,
      List.map_append, hdone.outputs_kept h.count (by omega), List.map_singleton, hnew, hdone.chain]
    rfl
  case kept =>
    intro a ha
    have hnow : u.byteAt a = t.byteAt a :=
      hdone.kept_outside h.count (by omega) (.inr (by rwa [h.config.dstAddr]))
    exact hnow.trans (h.kept a (by omega))

end OneMore

/-- The five steps of a block, from one point between blocks to the next. -/
theorem State.MidMessage.run_block {s : State} {any : Block} {draw : CoreDraw} {rest : List Event} {j : Nat}
    (h : s.MidMessage) (hcount : s.ctl.blkcnt = BitVec.ofNat 32 j) (hj : j < s.ctl.nBlocks.toNat)
    (hok : draw.ok = true) (hinbox : s.inbox = blockSchedule any draw ++ rest) :
    ∃ t, core.run 5 s = .next t ∧ t.inbox = rest ∧ t.MidMessage ∧ s.BlockDone draw t := by
  have hsize := s.ctl.nBlocks_le
  have hleft : s.ctl.blkcnt ≠ s.ctl.nBlocks := by
    intro hlast
    rw [← hlast, hcount, BitVec.toNat_ofNat] at hj
    omega
  obtain ⟨hq, hp⟩ : s.ctl.seq = .processing ∧ s.ctl.ph = .fetch := by
    simpa [Ctl.BetweenBlocks, hleft] using h.position
  have hoffset : ∀ (base : Addr) (k : Fin 16),
      (byteAddr (base + 16#32 * s.ctl.blkcnt) k - base).toNat < 16 * s.ctl.nBlocks.toNat := by
    intro base k
    rw [hcount, byteAddr_block_offset base (by omega)]
    omega
  have hidle : s.ctl.PortIdle := h.legal.1.portIdle (by rw [hp]; rfl)
  obtain ⟨t, hrun, hrest, hdone⟩ := Machine.run_block hidle.slot h.keyed h.mem hq hp hok
    (fun k => (h.usable _).1 (hoffset _ k)) (fun k => (h.usable _).2 (hoffset _ k)) hinbox
  exact ⟨t, hrun, hrest, h.block hq hrun hdone, hdone⟩

/-- The first `j` blocks of a message (R80, R81). -/
theorem run_blocks {s : State} {blocks : List (Block × CoreDraw)} {rest : List Event} (h : s.MidMessage)
    (hcount : s.ctl.blkcnt = 0#32) (hlen : blocks.length = s.ctl.nBlocks.toNat)
    (hok : ∀ p ∈ blocks, p.2.ok = true) (hinbox : s.inbox = messageSchedule blocks ++ rest) {j : Nat}
    (hj : j ≤ s.ctl.nBlocks.toNat) :
    ∃ t, core.run (5 * j) s = .next t ∧ t.inbox = messageSchedule (blocks.drop j) ++ rest ∧ t.MidMessage ∧
      s.BlocksDone j t := by
  induction j with
  | zero => exact ⟨s, run_zero s, hinbox, h, State.blocksDone_zero hcount⟩
  | succ j ih =>
    obtain ⟨t, hrun, hrest, hmid, hdone⟩ := ih (by omega)
    have hlt : j < blocks.length := by omega
    rw [List.drop_eq_getElem_cons hlt] at hrest
    have hschedule : t.inbox = blockSchedule blocks[j].1 blocks[j].2 ++
        (messageSchedule (blocks.drop (j + 1)) ++ rest) := by
      rw [hrest, messageSchedule, List.map_cons, List.flatten_cons, List.append_assoc]
      rfl
    obtain ⟨u, hrun', hrest', hmid', hblock⟩ := hmid.run_block hdone.count
      (by rw [hdone.config.nBlocks]; omega) (hok _ (List.getElem_mem hlt)) hschedule
    exact ⟨u, (run_add hrun).trans hrun', hrest', hmid', hdone.block h (by omega) hblock⟩

/-- A legal machine at the first block of a transform is between blocks. -/
theorem State.Legal.midMessage {s : State} (h : s.Legal) (htracks : s.Tracks) (hm : s.mem.wf = true)
    (hq : s.ctl.seq = .processing) (hp : s.ctl.ph = .fetch) (husable : rangesUsable s s.ctl.nBlocks.toNat)
    (hoverlap : s.ctl.dstAddr = s.ctl.srcAddr ∨
      16 * s.ctl.nBlocks.toNat ≤ (s.ctl.dstAddr - s.ctl.srcAddr).toNat) : s.MidMessage where
  legal := h
  mem := hm
  keyed := htracks.1.coreKeyed h.1 hq hp
  err := h.1.cleanErr (by rw [hq]; rfl)
  position := by
    have hleft : s.ctl.blkcnt ≠ s.ctl.nBlocks := fun hlast => (h.1.countBlock hq).ne (congrArg BitVec.toNat hlast)
    simp [Ctl.BetweenBlocks, hleft, hq, hp]
  usable := husable
  overlap := hoverlap

/-- Settles O58: the blocks one by one, from the first; after the last the controller is at the release. -/
theorem controllerComputesIge : Obligations.ControllerComputesIge := by
  intro s blocks rest n hlegal htracks hm hq hp hcount hn husable hlen hok hoverlap hinbox
  obtain rfl : n = s.ctl.nBlocks.toNat := hn
  have hmid : s.MidMessage := hlegal.midMessage htracks hm hq hp husable hoverlap
  obtain ⟨t, hrun, hrest, hend, hdone⟩ := run_blocks hmid hcount hlen hok hinbox le_rfl
  have hlast : t.ctl.blkcnt = s.ctl.nBlocks := by rw [hdone.count, BitVec.ofNat_toNat, BitVec.setWidth_eq]
  obtain ⟨hseq, hph⟩ : t.ctl.seq = .closing ∧ t.ctl.ph = .close := by
    simpa [Ctl.BetweenBlocks, hlast, hdone.config.nBlocks] using hend.position
  refine ⟨t, hrun, ?inbox, hseq, hph, hend.err, hlast, hdone.iv, ?outs, ?chain, hdone.kept⟩
  case inbox =>
    rw [hrest, List.drop_eq_nil_of_le hlen.le]
    rfl
  case outs =>
    intro j hj
    have houts := congrArg RunResult.outs hdone.run
    rw [houts, List.getElem?_map, List.getElem?_range hj]
    rfl
  case chain => exact (congrArg RunResult.last hdone.run).symm

end Sys2Proof.Machine
end

section
/-! PROOFS. The obligations of spec/41_sequencer.md on single steps outside the per-block loop: the failure path (O30),
where no step is enabled (O32), validation (O24), the core's setup (O25), its release and the commit (O31). -/

namespace Sys2Proof.Machine

/-! ### The failure path (R99, R152) -/

theorem Ctl.fail_of_open {c : Ctl} (h : c.oracleOpen = true) (code : ErrCode) :
    c.fail code = { c with err := code, seq := .closing, ph := .close } :=
  if_pos h

theorem Ctl.fail_of_closed {c : Ctl} (h : c.oracleOpen = false) (code : ErrCode) :
    c.fail code = { c with err := code, seq := .failed, ph := .none, done := true } :=
  if_neg (by simp [h])

/-- Settles O30: by whether the core is open. -/
theorem failurePath : Obligations.FailurePath := fun _ code =>
  ⟨fun h => Ctl.fail_of_open h code, fun h => Ctl.fail_of_closed h code⟩

/-- At the end of a transform the interrupt line is `IE` (R36). -/
theorem Ctl.refreshIrq_of_done {c : Ctl} (h : c.done = true) : c.refreshIrq = { c with irq := c.ie } := by
  rw [Ctl.refreshIrq, h, Bool.and_true]

/-- A failure before the core is open ends the transform with the interrupt line at `IE` (R36, R99). -/
theorem Ctl.fail_refreshIrq_of_closed {c : Ctl} (h : c.oracleOpen = false) (code : ErrCode) :
    (c.fail code).refreshIrq =
      { c with err := code, seq := .failed, ph := .none, done := true, irq := c.ie } := by
  rw [Ctl.fail_of_closed h, Ctl.refreshIrq_of_done rfl]

/-! ### Where no step is enabled (R88, R103, R156) -/

/-- A wait step before the core has answered changes nothing (R88). -/
theorem State.onResponse_none {s : State} (h : s.ctl.coreResp = none) (f : CoreResp → Ctl → Ctl) :
    s.onResponse f = s := by
  rw [State.onResponse, h]

/-- The table of R88 moves nothing where it enables no step: outside BUSY, and in a wait phase with an empty slot. -/
theorem State.sequence_of_not_enabled {s : State} (any : Block) (h : s.ctl.enabled = false) : s.sequence any = s := by
  by_cases hb : s.ctl.busy = true
  · obtain ⟨hwaiting, hresp⟩ : s.ctl.ph.waiting = true ∧ s.ctl.coreResp = none := by
      simpa [Ctl.enabled, hb] using h
    cases hp : s.ctl.ph
    case openWait | keyWait | cipherWait | closeWait =>
      simp only [State.sequence, hp, State.onResponse_none hresp]
      cases s.ctl.seq <;> rfl
    all_goals cases (congrArg Phase.waiting hp).symm.trans hwaiting
  · cases hq : s.ctl.seq
    case idle | completed | failed => simp only [State.sequence, hq]
    all_goals exact absurd (congrArg SeqState.busy hq) hb

/-- Then only the interrupt line is recomputed (R36). -/
theorem State.controllerStep_of_not_enabled {s : State} (any : Block) (h : s.ctl.enabled = false) :
    s.controllerStep any = s.mapCtl Ctl.refreshIrq := by
  rw [State.controllerStep, State.sequence_of_not_enabled any h]

/-- The interrupt line of a legal controller is what a step recomputes (R36). -/
theorem Ctl.Legal.refreshIrq_eq {c : Ctl} (h : c.Legal) : c.refreshIrq = c := by
  rw [Ctl.refreshIrq, ← h.irqLine]

/-- Settles O32: the table moves nothing, and the interrupt line is right already. -/
theorem noStepWhenNoneIsEnabled : Obligations.NoStepWhenNoneIsEnabled := by
  intro s any hlegal h
  rw [State.controllerStep_of_not_enabled any h, State.mapCtl, hlegal.1.refreshIrq_eq]

/-! ### The rows of R88 outside the per-block loop -/

section Rows
variable {s : State} (any : Block)

theorem State.controllerStep_validating (hq : s.ctl.seq = .validating) (hp : s.ctl.ph = .none) :
    s.controllerStep any = s.mapCtl fun c => c.validate.refreshIrq := by
  simp only [State.controllerStep, State.sequence, hq, hp, if_true, State.mapCtl_mapCtl]

theorem State.controllerStep_openReq (hq : s.ctl.seq = .setup) (hp : s.ctl.ph = .openReq) :
    s.controllerStep any = s.mapCtl fun c => c.issueOpen.refreshIrq := by
  simp only [State.controllerStep, State.sequence, hq, hp, State.mapCtl_mapCtl]

theorem State.controllerStep_openWait {r : CoreResp} (hq : s.ctl.seq = .setup) (hp : s.ctl.ph = .openWait)
    (hr : s.ctl.coreResp = some r) : s.controllerStep any = s.mapCtl fun c => (c.takeOpen r).refreshIrq := by
  simp only [State.controllerStep, State.sequence, hq, hp, State.onResponse, hr, State.mapCtl_mapCtl]

theorem State.controllerStep_key (hq : s.ctl.seq = .setup) (hp : s.ctl.ph = .key) :
    s.controllerStep any = s.mapCtl fun c => c.issueSetKey.refreshIrq := by
  simp only [State.controllerStep, State.sequence, hq, hp, State.mapCtl_mapCtl]

theorem State.controllerStep_keyWait {r : CoreResp} (hq : s.ctl.seq = .setup) (hp : s.ctl.ph = .keyWait)
    (hr : s.ctl.coreResp = some r) : s.controllerStep any = s.mapCtl fun c => (c.takeSetKey r).refreshIrq := by
  simp only [State.controllerStep, State.sequence, hq, hp, State.onResponse, hr, State.mapCtl_mapCtl]

theorem State.controllerStep_close (hq : s.ctl.seq = .closing) (hp : s.ctl.ph = .close) :
    s.controllerStep any = s.mapCtl fun c => c.issueClose.refreshIrq := by
  simp only [State.controllerStep, State.sequence, hq, hp, State.mapCtl_mapCtl]

theorem State.controllerStep_closeWait {r : CoreResp} (hq : s.ctl.seq = .closing) (hp : s.ctl.ph = .closeWait)
    (hr : s.ctl.coreResp = some r) : s.controllerStep any = s.mapCtl fun c => (c.takeClose r).refreshIrq := by
  simp only [State.controllerStep, State.sequence, hq, hp, State.onResponse, hr, State.mapCtl_mapCtl]

end Rows

/-! ### Validation (R90, R150) -/

theorem Ctl.lengthValid_iff (c : Ctl) : c.lengthValid = true ↔ c.length.extractLsb' 0 4 = 0#4 :=
  beq_iff_eq

/-- `KEY_LEN` is compared as a full 32-bit number (R24, R90). -/
theorem Ctl.keyLenValid_iff (c : Ctl) :
    c.keyLenValid = true ↔ c.keyLen = 16#32 ∨ c.keyLen = 24#32 ∨ c.keyLen = 32#32 := by
  simp only [Ctl.keyLenValid, keyLengthOk, Bool.or_eq_true, beq_iff_eq, or_assoc, ← BitVec.toNat_inj,
    BitVec.toNat_ofNat]

theorem Ctl.validate_of_length {c : Ctl} (h : ¬ c.lengthValid = true) : c.validate = c.fail .invalidLength := by
  simp [Ctl.validate, h]

theorem Ctl.validate_of_keyLen {c : Ctl} (hlength : c.lengthValid = true) (h : ¬ c.keyLenValid = true) :
    c.validate = c.fail .invalidKeyLength := by
  simp [Ctl.validate, hlength, h]

theorem Ctl.validate_of_valid {c : Ctl} (hlength : c.lengthValid = true) (hkeyLen : c.keyLenValid = true) :
    c.validate = { c with seq := .setup, ph := .openReq } := by
  simp [Ctl.validate, hlength, hkeyLen]

/-- Settles O24: the length decides first, then the key length. -/
theorem validationStep : Obligations.ValidationStep := by
  intro s any hq hp hclosed
  rw [State.controllerStep_validating any hq hp, State.mapCtl]
  refine ⟨fun hlength => ?length, fun hlength h16 h24 h32 => ?keyLen, fun hlength hkeyLen => ?valid⟩
  case length =>
    rw [Ctl.validate_of_length (mt s.ctl.lengthValid_iff.mp hlength), Ctl.fail_refreshIrq_of_closed hclosed]
  case keyLen =>
    have hinvalid : ¬ s.ctl.keyLenValid = true := by
      rw [Ctl.keyLenValid_iff]
      simp [h16, h24, h32]
    rw [Ctl.validate_of_keyLen (s.ctl.lengthValid_iff.mpr hlength) hinvalid, Ctl.fail_refreshIrq_of_closed hclosed]
  case valid =>
    rw [Ctl.validate_of_valid (s.ctl.lengthValid_iff.mpr hlength) (s.ctl.keyLenValid_iff.mpr hkeyLen)]
    rfl

/-! ### Opening and keying the core (R91 to R94) -/

/-- The `variant` field of each key length (R67). -/
theorem variantField_cases {n : Nat} {variant : BitVec 2}
    (h : n = 16 ∧ variant = 0b00#2 ∨ n = 24 ∧ variant = 0b01#2 ∨ n = 32 ∧ variant = 0b10#2) :
    variantField n = variant ∧ n ≤ 32 := by
  obtain ⟨rfl, rfl⟩ | ⟨rfl, rfl⟩ | ⟨rfl, rfl⟩ := h <;> decide

theorem Ctl.takeOpen_ok {c : Ctl} {r : CoreResp} (h : r.ok = true) :
    c.takeOpen r = { c.consume with oracleOpen := true, ph := .key } :=
  if_pos h

theorem Ctl.takeOpen_failed {c : Ctl} {r : CoreResp} (h : r.ok = false) :
    c.takeOpen r = c.consume.fail .oracleSetupFailure :=
  if_neg (by simp [h])

theorem Ctl.takeSetKey_failed {c : Ctl} {r : CoreResp} (h : r.ok = false) :
    c.takeSetKey r = c.consume.fail .oracleSetupFailure := by
  simp [Ctl.takeSetKey, h]

/-- The keyed core is given the first block, or is released when there is none (R94). -/
theorem Ctl.takeSetKey_ok {c : Ctl} {r : CoreResp} (h : r.ok = true) :
    c.takeSetKey r = { c.consume with
      seq := if c.nBlocks = 0#32 then .closing else .processing
      ph := if c.nBlocks = 0#32 then .close else .fetch } := by
  by_cases hn : c.nBlocks = 0#32 <;> simp [Ctl.takeSetKey, h, hn]

/-- The `data` of SET_KEY holds the first `KEY_LEN` key bytes, and 0 in every higher byte (R70). -/
theorem keyData_keyBytes_get (c : Ctl) (j : Fin 32) :
    (keyData c.keyBytes).get j = if j.val < c.keyLen.toNat then registerByte c.key j else 0#8 := by
  have hbyte := registerBytes_getElem? c.key j
  simp only [keyData, Ctl.keyBytes, Vector.get_eq_getElem, Vector.getElem_ofFn, List.getD_eq_getElem?_getD,
    List.getElem?_take, hbyte]
  split <;> rfl

/-- Settles O25: one row of R88 a clause, and for a failed answer the failure path. -/
theorem coreSetupSteps : Obligations.CoreSetupSteps := by
  intro s any n variant r hq hn
  obtain ⟨hvariant, hle⟩ := variantField_cases hn
  refine ⟨fun hp hkeyLen => ?issueOpen, fun hp hr hok => ?opened, fun hp hr hok hclosed => ?openFailed,
    fun hp hkeyLen => ⟨keyData s.ctl.keyBytes, ?issueSetKey, fun j => ?keyByte⟩, fun hp hr hok hsome => ?keyed,
    fun hp hr hok hzero => ?nothingToDo, fun hp hr hok hopen => ?keyFailed⟩
  case issueOpen =>
    rw [State.controllerStep_openReq any hq hp, State.mapCtl, Ctl.issueOpen, hkeyLen, hvariant]
    rfl
  case opened =>
    rw [State.controllerStep_openWait any hq hp hr, State.mapCtl, Ctl.takeOpen_ok hok]
    rfl
  case openFailed =>
    rw [State.controllerStep_openWait any hq hp hr, State.mapCtl, Ctl.takeOpen_failed hok,
      Ctl.fail_refreshIrq_of_closed (c := s.ctl.consume) hclosed]
    rfl
  case issueSetKey =>
    have hlen : s.ctl.keyBytes.length = n := by
      rw [Ctl.keyBytes_length, hkeyLen]
      exact Nat.min_eq_left hle
    rw [State.controllerStep_key any hq hp, State.mapCtl, Ctl.issueSetKey, setKeyRequest, hlen]
    rfl
  case keyByte => rw [keyData_keyBytes_get, hkeyLen]
  case keyed =>
    rw [State.controllerStep_keyWait any hq hp hr, State.mapCtl, Ctl.takeSetKey_ok hok]
    simp only [Ctl.nBlocks, hsome, if_false]
    rfl
  case nothingToDo =>
    rw [State.controllerStep_keyWait any hq hp hr, State.mapCtl, Ctl.takeSetKey_ok hok]
    simp only [Ctl.nBlocks, hzero, if_true]
    rfl
  case keyFailed =>
    rw [State.controllerStep_keyWait any hq hp hr, State.mapCtl, Ctl.takeSetKey_failed hok,
      Ctl.fail_of_open (c := s.ctl.consume) hopen]
    rfl

/-! ### Release and commit (R100 to R102) -/

/-- After a failure the answer to CLOSE ends the transform in FAILED (R101). -/
theorem Ctl.takeClose_of_err {c : Ctl} (r : CoreResp) (h : c.err ≠ .none) :
    c.takeClose r = { c.consume with oracleOpen := false, seq := .failed, ph := .none, done := true } :=
  if_neg h

/-- Without a failure the answer to CLOSE ends the transform in COMPLETED, with the IV of the commit (R101, R102). -/
theorem Ctl.takeClose_of_clean {c : Ctl} (r : CoreResp) (h : c.err = .none) :
    c.takeClose r = { c.consume with
      oracleOpen := false, seq := .completed, ph := .none, done := true, iv := c.commit.iv } := by
  rw [Ctl.takeClose, if_pos h, Ctl.commit_eq, Ctl.commit_iv, Ctl.commit_iv]
  rfl

/-- Settles O31: the rows of CLOSE, and whether the commit writes the IV. -/
theorem releaseAndCommit : Obligations.ReleaseAndCommit := by
  intro s any r hq
  refine ⟨fun hp => ?close, fun hp hr herr => ?failed,
    fun hp hr herr => ⟨s.ctl.commit.iv, ?completed, fun ⟨hdir, hn⟩ => ?written, fun hkept => ?kept⟩⟩
  case close => exact State.controllerStep_close any hq hp
  case failed =>
    rw [State.controllerStep_closeWait any hq hp hr, State.mapCtl, Ctl.takeClose_of_err r herr,
      Ctl.refreshIrq_of_done rfl]
    rfl
  case completed =>
    rw [State.controllerStep_closeWait any hq hp hr, State.mapCtl, Ctl.takeClose_of_clean r herr,
      Ctl.refreshIrq_of_done rfl]
    rfl
  case written =>
    have hcommits : (s.ctl.dir && s.ctl.nBlocks != 0#32) = true := by simpa [Ctl.nBlocks, hdir] using hn
    rw [Ctl.commit_iv, if_pos hcommits]
    exact ⟨lowHalf_halvesToRegs _ _, highHalf_halvesToRegs _ _⟩
  case kept =>
    have hno : ¬ (s.ctl.dir && s.ctl.nBlocks != 0#32) = true := by
      rcases hkept with hdir | hn <;> simp_all [Ctl.nBlocks]
    rw [Ctl.commit_iv, if_neg hno]

end Sys2Proof.Machine
end

section
/-! PROOFS. The obligations of spec/41_sequencer.md on the steps of one block: the fetch (O26), the cipher request and
its answer (O27), and the write, accepted (O28) or refused at a byte (O29). -/

namespace Sys2Proof.Machine

/-! ### The fetch (R95) -/

theorem State.controllerStep_fetching {s : State} (any : Block) (hq : s.ctl.seq = .processing)
    (hp : s.ctl.ph = .fetch) : s.controllerStep any = (s.fetch any).mapCtl Ctl.refreshIrq := by
  simp only [State.controllerStep, State.sequence, hq, hp]

theorem State.fetch_of_some {s : State} {any b : Block} (h : s.readBlock s.ctl.inputAddr any = some b) :
    s.fetch any = s.mapCtl fun c => { c with inBlk := b, ph := .cipher } := by
  rw [State.fetch, h]

theorem State.fetch_of_none {s : State} {any : Block} (h : s.readBlock s.ctl.inputAddr any = none) :
    s.fetch any = s.mapCtl (Ctl.fail .memoryAccessFailure) := by
  rw [State.fetch, h]

/-- Settles O26: by whether the block read is accepted. -/
theorem blockFetch : Obligations.BlockFetch := by
  intro s any hq hp
  rw [State.controllerStep_fetching any hq hp]
  refine ⟨fun haccepted => ?accepted, fun hrefused hopen => ?refused⟩
  case accepted =>
    obtain ⟨b, hb, hbytes⟩ := State.readBlock_accepted (base := s.ctl.inputAddr) (any := any) haccepted
    exact ⟨b, congrArg (State.mapCtl Ctl.refreshIrq) (State.fetch_of_some hb), hbytes⟩
  case refused =>
    have hnone := State.readBlock_refused (base := s.ctl.inputAddr) (any := any) hrefused
    rw [State.fetch_of_none hnone, State.mapCtl_mapCtl, State.mapCtl, Ctl.fail_of_open hopen]
    rfl

/-! ### The cipher request and its answer (R96, R97) -/

/-- The request of either direction: `op` tells ENC from DEC, and every other field is built alike (R65, R72). -/
theorem cipherRequest_eq (dir : Bool) (t : Block) :
    sel dir (encRequest t) (decRequest t) =
      ⟨if dir = true then 0b010#3 else 0b011#3, 0#2, 0#6, blockData t⟩ := by
  cases dir <;> rfl

/-- The block stands in `data[127:0]`, and `data[255:128]` is 0 (R72). -/
theorem blockData_get (b : Block) (j : Fin 32) :
    (blockData b).get j = if h : j.val < 16 then b.get ⟨j.val, h⟩ else 0#8 := by
  by_cases h : j.val < 16 <;> simp [blockData, Vector.get_eq_getElem, h]

theorem Ctl.takeCipher_ok {c : Ctl} {r : CoreResp} (h : r.ok = true) :
    c.takeCipher r = { c.consume with outBlk := xor16 r.data c.postHalf, ph := .write } := by
  simp [Ctl.takeCipher, h]

theorem Ctl.takeCipher_failed {c : Ctl} {r : CoreResp} (h : r.ok = false) :
    c.takeCipher r = c.consume.fail .blockOperationFailure := by
  simp [Ctl.takeCipher, h]

/-- Settles O27: the row of the request, and that of its answer by what stands in the slot. -/
theorem cipherSteps : Obligations.CipherSteps := by
  intro s any r hq
  refine ⟨fun hp => ⟨blockData s.ctl.cipherInput, ?request, fun j => blockData_get _ j⟩,
    fun hp hr hok => ?answered, fun hp hr hok hopen => ?failed, fun hp hr => ?waiting⟩
  case request =>
    rw [State.controllerStep_cipher any hq hp, State.mapCtl, Ctl.issueCipher, cipherRequest_eq]
    rfl
  case answered =>
    rw [State.controllerStep_cipherWait any hq hp hr, State.mapCtl, Ctl.takeCipher_ok hok]
    rfl
  case failed =>
    rw [State.controllerStep_cipherWait any hq hp hr, State.mapCtl, Ctl.takeCipher_failed hok,
      Ctl.fail_of_open (c := s.ctl.consume) hopen]
    rfl
  case waiting =>
    have henabled : s.ctl.enabled = false := by simp [Ctl.enabled, hp, Phase.waiting, hr]
    exact State.controllerStep_of_not_enabled any henabled

/-! ### The write (R46, R98) -/

/-- The block that has been written is counted, and the last one leads to the release (R98). -/
theorem Ctl.finishBlock_eq {c : Ctl} (hq : c.seq = .processing) :
    c.finishBlock = { c.noteWritten 16 with
      wx := if c.dir = true then c.inBlk else c.outBlk
      wy := if c.dir = true then c.outBlk else c.inBlk
      blkcnt := c.blkcnt + 1#32
      seq := if c.blkcnt + 1#32 = c.nBlocks then .closing else .processing
      ph := if c.blkcnt + 1#32 = c.nBlocks then .close else .fetch } := by
  by_cases hlast : c.blkcnt + 1#32 = c.nBlocks
  · simp only [Ctl.finishBlock, hlast, if_true]
    rfl
  · simp only [Ctl.finishBlock, hlast, if_false, ← hq]
    rfl

/-- Settles O28: all sixteen writes are accepted, and the block is counted. -/
theorem blockWriteAccepted : Obligations.BlockWriteAccepted := by
  intro s any hq hp hm hok
  obtain ⟨-, hbytes⟩ := State.writeBytes_accepted (base := s.ctl.outputAddr) (blk := s.ctl.outBlk) (any := any) hm
    (by decide : blockPositions.Nodup) fun k _ => hok k
  obtain ⟨hdeny, hmemResp, hinbox, -⟩ := s.controllerStep_rest any
  refine ⟨_, rfl, ?ctl, fun k => ?written, fun a ha => State.controllerStep_write_kept any hq hp hm ha, hdeny,
    hmemResp, hinbox⟩
  case ctl =>
    rw [State.controllerStep_write_ctl any hq hp hok, Ctl.finishBlock_eq hq]
    rfl
  case written => exact (s.controllerStep_write_byteAt any hq hp _).trans (hbytes k (mem_blockPositions k))

/-- The positions of a block before and after one of them. -/
theorem blockPositions_split : ∀ k : Fin 16,
    blockPositions = blockPositions.take k.val ++ k :: blockPositions.drop (k.val + 1) := by
  decide

theorem mem_blockPositions_take : ∀ k m : Fin 16, m ∈ blockPositions.take k.val ↔ m < k := by
  decide

section Refused
variable {s : State} (any : Block) {k : Fin 16} (hq : s.ctl.seq = .processing) (hp : s.ctl.ph = .write)
  (hok : ∀ m, m < k → s.memOk (byteAddr s.ctl.outputAddr m) .write = true)
  (hrefused : s.memOk (byteAddr s.ctl.outputAddr k) .write = false)
include hq hp hok hrefused

/-- A write refused at byte `k` fails the transform, with `k` bytes noted as written (R98, R149). -/
theorem State.controllerStep_refused_ctl : (s.controllerStep any).ctl =
    ((s.ctl.fail .memoryAccessFailure).noteWritten k.val).refreshIrq := by
  have hnot : ¬ (blockPositions.all fun m => s.memOk (byteAddr s.ctl.outputAddr m) .write) = true := fun hall => by
    simpa [hrefused] using List.all_eq_true.mp hall k (mem_blockPositions k)
  have hcount := State.acceptedWrites_refused (after := blockPositions.drop (k.val + 1))
    (fun m hm => hok m ((mem_blockPositions_take k m).mp hm)) hrefused
  have hlen : (blockPositions.take k.val).length = k.val := List.length_take_of_le k.isLt.le
  rw [← blockPositions_split, hlen] at hcount
  rw [State.controllerStep_write any hq hp, State.mapCtl_ctl, State.writeOut_ctl_eq, if_neg hnot, hcount]

/-- A write refused at byte `k` reaches memory as the writes before it do (R46). -/
theorem State.controllerStep_refused_byteAt (a : Addr) : (s.controllerStep any).byteAt a =
    (s.writeBytes s.ctl.outputAddr s.ctl.outBlk any (blockPositions.take k.val)).1.byteAt a := by
  have hsplit := State.writeBytes_refused (blk := s.ctl.outBlk) (any := any)
    (after := blockPositions.drop (k.val + 1)) (fun m hm => hok m ((mem_blockPositions_take k m).mp hm)) hrefused
  rw [← blockPositions_split] at hsplit
  rw [s.controllerStep_write_byteAt any hq hp, hsplit]

end Refused

/-- Settles O29: the writes before byte `k` are accepted, and no other is made. -/
theorem blockWriteRefused : Obligations.BlockWriteRefused := by
  intro s any k hq hp hm hopen hok hrefused
  have hbyteAt := State.controllerStep_refused_byteAt any hq hp hok hrefused
  obtain ⟨-, hbytes⟩ := State.writeBytes_accepted (base := s.ctl.outputAddr) (blk := s.ctl.outBlk) (any := any) hm
    ((by decide : blockPositions.Nodup).sublist (List.take_sublist k.val _))
    fun m hmem => hok m ((mem_blockPositions_take k m).mp hmem)
  refine ⟨_, rfl, ?ctl, fun m hmk => ?written, fun a ha => ?kept⟩
  case ctl =>
    rw [State.controllerStep_refused_ctl any hq hp hok hrefused, Ctl.fail_of_open hopen]
    rfl
  case written => exact (hbyteAt _).trans (hbytes m ((mem_blockPositions_take k m).mpr hmk))
  case kept =>
    exact (hbyteAt a).trans (State.writeBytes_outside hm fun m hmem =>
      ha m ((mem_blockPositions_take k m).mp hmem))

end Sys2Proof.Machine
end

section
/-! PROOFS. The obligations of spec/41_sequencer.md on every controller step: how many a transform has left (O47), and
which one writes the IV (O49). -/

namespace Sys2Proof.Machine

/-! ### How many controller steps are left (R106) -/

/-- A failure leaves at most the release: CLOSE and its answer (R99). -/
theorem Ctl.fail_stepsLeft_le (c : Ctl) (e : ErrCode) : (c.fail e).stepsLeft ≤ 2 := by
  unfold Ctl.fail
  split <;> simp [Ctl.stepsLeft]

/-- Before the release there is more left than the release: while PROCESSING a block is still to be written (R98). -/
theorem Ctl.Legal.two_lt_stepsLeft {c : Ctl} (h : c.Legal) (hb : c.busy = true) (hq : c.seq ≠ .closing) :
    2 < c.stepsLeft := by
  cases hseq : c.seq
  case validating =>
    simp only [Ctl.stepsLeft, hseq]
    omega
  case setup => cases hp : c.ph <;> simp only [Ctl.stepsLeft, hseq, hp] <;> omega
  case processing =>
    have hleft := h.countBlock hseq
    cases hp : c.ph <;> simp only [Ctl.stepsLeft, hseq, hp] <;> omega
  case closing => exact absurd hseq hq
  all_goals cases (congrArg SeqState.busy hseq).symm.trans hb

/-- A step that fails brings the end nearer. -/
theorem Ctl.Legal.fail_stepsLeft_lt {c d : Ctl} (h : c.Legal) (hb : c.busy = true) (hq : c.seq ≠ .closing)
    (e : ErrCode) : (d.fail e).stepsLeft < c.stepsLeft :=
  (d.fail_stepsLeft_le e).trans_lt (h.two_lt_stepsLeft hb hq)

/-- Block by block the count goes up, within 32 bits (R20, R98). -/
theorem Ctl.Legal.blkcnt_succ {c : Ctl} (h : c.Legal) : (c.blkcnt + 1#32).toNat = c.blkcnt.toNat + 1 := by
  have hmax := h.countMax
  rw [BitVec.toNat_add, BitVec.toNat_ofNat]
  omega

/-- The block that has been written is taken off, and at least its write (R98). -/
theorem Ctl.Legal.finishBlock_stepsLeft_lt {c : Ctl} (h : c.Legal) (hq : c.seq = .processing) (hp : c.ph = .write) :
    c.finishBlock.stepsLeft < c.stepsLeft := by
  have hleft : c.blkcnt.toNat < c.nBlocks.toNat := h.countBlock hq
  have hnow : c.stepsLeft = 4 * (c.nBlocks.toNat - c.blkcnt.toNat) - 1 := by simp only [Ctl.stepsLeft, hq, hp]
  rw [hnow, Ctl.finishBlock_eq hq]
  by_cases hlast : c.blkcnt + 1#32 = c.nBlocks
  · simp only [Ctl.stepsLeft, hlast, if_true]
    omega
  · simp only [Ctl.stepsLeft, hlast, if_false, h.blkcnt_succ]
    simp only [Ctl.nBlocks, Ctl.noteWritten_length] at hleft ⊢
    omega

/-- An enabled step brings the end of the transform nearer (R106). -/
theorem Ctl.Moves.stepsLeft_lt {c d : Ctl} (h : c.Moves d) (hlegal : c.Legal) (henabled : c.enabled = true) :
    d.stepsLeft < c.stepsLeft := by
  have hb : c.busy = true := (Bool.and_eq_true_iff.mp henabled).1
  have hfail : c.seq ≠ .closing → ∀ (d : Ctl) (e : ErrCode), (d.fail e).stepsLeft < c.stepsLeft := fun hq d e =>
    hlegal.fail_stepsLeft_lt hb hq e
  cases h with
  | stay hstay => simp [henabled, hlegal.phase] at hstay
  | validate hq _ =>
    by_cases hlength : c.lengthValid = true
    · by_cases hkeyLen : c.keyLenValid = true
      · rw [Ctl.validate_of_valid hlength hkeyLen]
        simp [Ctl.stepsLeft, Ctl.nBlocks, hq]
      · rw [Ctl.validate_of_keyLen hlength hkeyLen]
        exact hfail (by simp [hq]) _ _
    · rw [Ctl.validate_of_length hlength]
      exact hfail (by simp [hq]) _ _
  | issueOpen hq hp => simp [Ctl.issueOpen, Ctl.stepsLeft, Ctl.nBlocks, hq, hp]
  | takeOpen r hq hp _ =>
    cases hok : r.ok
    · rw [Ctl.takeOpen_failed hok]
      exact hfail (by simp [hq]) _ _
    · rw [Ctl.takeOpen_ok hok]
      simp [Ctl.stepsLeft, Ctl.nBlocks, hq, hp]
  | issueSetKey hq hp => simp [Ctl.issueSetKey, Ctl.stepsLeft, Ctl.nBlocks, hq, hp]
  | takeSetKey r hq hp _ =>
    cases hok : r.ok
    · rw [Ctl.takeSetKey_failed hok]
      exact hfail (by simp [hq]) _ _
    · have hcount : c.blkcnt = 0#32 := hlegal.countStart (.inr (.inl hq))
      rw [Ctl.takeSetKey_ok hok]
      by_cases hn : c.length >>> 4 = 0#32 <;> simp [Ctl.stepsLeft, Ctl.nBlocks, hq, hp, hcount, hn]
  | fetch b hq hp => simp [Ctl.stepsLeft, Ctl.nBlocks, hq, hp]
  | refused written hq _ => exact hfail (by simp [hq]) _ _
  | issueCipher hq hp => simp [Ctl.issueCipher, Ctl.stepsLeft, Ctl.nBlocks, hq, hp]
  | takeCipher r hq hp _ =>
    cases hok : r.ok
    · rw [Ctl.takeCipher_failed hok]
      exact hfail (by simp [hq]) _ _
    · have hleft : c.blkcnt.toNat < c.nBlocks.toNat := hlegal.countBlock hq
      rw [Ctl.takeCipher_ok hok]
      simp only [Ctl.stepsLeft, Ctl.nBlocks, Ctl.consume_seq, Ctl.consume_length, Ctl.consume_blkcnt, hq, hp]
        at hleft ⊢
      omega
  | finishBlock hq hp => exact hlegal.finishBlock_stepsLeft_lt hq hp
  | issueClose hq hp => simp [Ctl.issueClose, Ctl.stepsLeft, hq, hp]
  | takeClose r hq hp _ =>
    by_cases herr : c.err = .none
    · rw [Ctl.takeClose_of_clean r herr]
      simp [Ctl.stepsLeft, hq, hp]
    · rw [Ctl.takeClose_of_err r herr]
      simp [Ctl.stepsLeft, hq, hp]

/-- A transform has at most `7 + 4n` controller steps (R106). -/
theorem Ctl.stepsLeft_le (c : Ctl) : c.stepsLeft ≤ 7 + 4 * c.nBlocks.toNat := by
  cases hq : c.seq
  case setup | processing | closing => cases hp : c.ph <;> simp only [Ctl.stepsLeft, hq, hp] <;> omega
  all_goals
    simp only [Ctl.stepsLeft, hq]
    omega

/-- None is left exactly when the transform is over (R30, R106). -/
theorem Ctl.Legal.stepsLeft_eq_zero_iff {c : Ctl} (h : c.Legal) : c.stepsLeft = 0 ↔ c.busy = false := by
  cases hq : c.seq
  case idle | completed | failed => simp [Ctl.stepsLeft, Ctl.busy, SeqState.busy, hq]
  case closing => cases hp : c.ph <;> simp [Ctl.stepsLeft, Ctl.busy, SeqState.busy, hq, hp]
  all_goals
    have hb : c.busy = true := congrArg SeqState.busy hq
    have hlong := h.two_lt_stepsLeft hb (by simp [hq])
    exact iff_of_false (by omega) (by simp [hb])

/-- Settles O47: each row of R88 takes something off, and the bounds are read off the table. -/
theorem enabledStepsRunOut : Obligations.EnabledStepsRunOut := by
  intro s any hlegal
  refine ⟨fun henabled => ?nearer, s.ctl.stepsLeft_le, hlegal.1.stepsLeft_eq_zero_iff⟩
  obtain ⟨d, hd, hctl⟩ := s.controllerStep_moves any
  rw [hctl]
  exact hd.stepsLeft_lt hlegal.1 henabled

/-! ### Which step writes the IV (R102, R153) -/

/-- Settles O49: a step that commits leaves the working halves there, and any other what stood there. -/
theorem ivWrittenOnlyByCommit : Obligations.IvWrittenOnlyByCommit := by
  intro s any
  obtain ⟨d, hd, hctl⟩ := s.controllerStep_moves any
  rw [hctl, Ctl.refreshIrq_iv]
  split
  · next hcommits => exact (hd.iv_committed hcommits).1
  · next hkept => exact hd.form.iv_kept (Bool.eq_false_of_not_eq_true hkept)

end Sys2Proof.Machine
end

section
/-! PROOFS. The obligations of spec/41_sequencer.md on runs: the five steps of a block (O57), and a whole transform
(O59) as its setup, its blocks and its release. -/

namespace Sys2Proof.Machine

/-! ### One block (R95 to R98) -/

/-- The output block of the block just processed (R43, R98). -/
theorem State.BlockDone.output {s t : State} {draw : CoreDraw} (h : s.BlockDone draw t) :
    outputBlock t s.ctl.blkcnt.toNat = (s.ctl.chainStep (memoryBlock s s.ctl.inputAddr)).out := by
  rw [outputBlock, h.configKept.dstAddr, BitVec.ofNat_toNat, BitVec.setWidth_eq]
  exact h.written

/-- Settles O57: the run of a block, from a core that the transform has keyed. -/
theorem oneBlockIsOneChainingStep : Obligations.OneBlockIsOneChainingStep := by
  intro s any draw rest hlegal htracks hm hq hp hok hread hwrite hinbox
  have hidle : s.ctl.PortIdle := hlegal.1.portIdle (by rw [hp]; rfl)
  have hkeyed : s.ctl.CoreKeyed := htracks.1.coreKeyed hlegal.1 hq hp
  obtain ⟨t, hrun, hrest, hdone⟩ := run_block hidle.slot hkeyed hm hq hp hok hread hwrite hinbox
  exact ⟨t, hrun, hrest, hdone.output, hdone.chain, hdone.blkcnt, hdone.kept⟩

/-! ### A request, its answer, and the step that takes it (R35, R88, R108) -/

/-- The controller whose request the core has answered, with the variant and the key that the core then holds (R108). -/
def Ctl.exchanged (q : CoreWord) (wait : Phase) (draw : CoreDraw) (cv : Option Variant) (ck : Option (List Byte))
    (c : Ctl) : Ctl :=
  (Ctl.coreAnswer draw.ok draw.any { c.sendRequest q wait with cv := cv, ck := ck, draw := draw }).refreshIrq

/-- A request is sent, the core answers it, and the answer is taken by `take`. -/
theorem run_exchange {s : State} {any : Block} {draw : CoreDraw} {rest : List Event} {q : CoreWord} {wait : Phase}
    {i : Instr} {cv : Option Variant} {ck : Option (List Byte)} {take : Ctl → Ctl}
    (hinbox : s.inbox = releaseSchedule any draw ++ rest) (hslot : s.ctl.coreResp = none)
    (hissue : ∀ es, (s.resume s.ctl es).controllerStep any = s.resume (s.ctl.sendRequest q wait).refreshIrq es)
    (hi : decodeCore q = .ok i)
    (hexec : ∀ es, exec i (s.resume { (s.ctl.sendRequest q wait).refreshIrq with draw := draw } es) =
      .next (s.resume (s.ctl.exchanged q wait draw cv ck) es))
    (htake : ∀ es, (s.resume (s.ctl.exchanged q wait draw cv ck) es).controllerStep any =
      s.resume (take (s.ctl.exchanged q wait draw cv ck)).refreshIrq es) :
    core.run 3 s = .next (s.resume (take (s.ctl.exchanged q wait draw cv ck)).refreshIrq rest) := by
  have hissued : step s =
      .next (s.resume (s.ctl.sendRequest q wait).refreshIrq (.core draw :: .controller any :: rest)) :=
    (step_of_inbox hinbox).trans (congrArg Host.Outcome.next (hissue _))
  have hanswered : step (s.resume (s.ctl.sendRequest q wait).refreshIrq (.core draw :: .controller any :: rest)) =
      .next (s.resume (s.ctl.exchanged q wait draw cv ck) (.controller any :: rest)) :=
    (coreStep_of_decodeCore (s := s.resume (s.ctl.sendRequest q wait).refreshIrq (.controller any :: rest)) rfl rfl
      hslot hi).trans (hexec _)
  have htaken : step (s.resume (s.ctl.exchanged q wait draw cv ck) (.controller any :: rest)) =
      .next (s.resume (take (s.ctl.exchanged q wait draw cv ck)).refreshIrq rest) :=
    congrArg Host.Outcome.next (htake rest)
  rw [run_succ hissued, run_succ hanswered, run_succ htaken, run_zero]

/-! ### OPEN, SET_KEY and CLOSE (R91 to R94, R100, R101, R110, R111, R114) -/

/-- The controller once its core is open (R92, R110). -/
def Ctl.opened (draw : CoreDraw) (c : Ctl) : Ctl :=
  Ctl.refreshIrq { c with
    ph := .key, oracleOpen := true, cv := variantOfKeyLen c.keyLen.toNat, coreReq := none, corePending := false
    coreResp := none, draw := draw }

/-- The controller once its core is keyed: at the first block, or at the release when there is none (R94, R111). -/
def Ctl.keyed (draw : CoreDraw) (c : Ctl) : Ctl :=
  Ctl.refreshIrq { c with
    seq := if c.nBlocks = 0#32 then .closing else .processing
    ph := if c.nBlocks = 0#32 then .close else .fetch
    ck := some c.keyBytes, coreReq := none, corePending := false, coreResp := none, draw := draw }

/-- The controller after the CLOSE answer of a transform that has not failed (R101, R102, R114). -/
def Ctl.released (draw : CoreDraw) (c : Ctl) : Ctl :=
  Ctl.refreshIrq { c with
    seq := .completed, ph := .none, done := true, oracleOpen := false, iv := c.commit.iv, cv := none, ck := none
    coreReq := none, corePending := false, coreResp := none, draw := draw }

section Exchanges
variable {s : State} {any : Block} {draw : CoreDraw} {rest : List Event}
  (hinbox : s.inbox = releaseSchedule any draw ++ rest) (hslot : s.ctl.coreResp = none)
include hslot hinbox

/-- The core is opened (R91, R92, R110). -/
theorem run_open (hq : s.ctl.seq = .setup) (hp : s.ctl.ph = .openReq) (hvalid : s.ctl.keyLenValid = true)
    (hok : draw.ok = true) : core.run 3 s = .next (s.resume (s.ctl.opened draw) rest) := by
  obtain ⟨v, hv⟩ := variantOfKeyLen_of_valid hvalid
  obtain ⟨ok, data, keyTail⟩ := draw
  obtain rfl : ok = true := hok
  have hdecode : decodeCore (openRequest (variantField s.ctl.keyLen.toNat)) = .ok (.coreOpen v) := by
    rw [variantField, hv]
    exact decode_encode (.coreOpen v)
  have hrun := run_exchange (q := openRequest (variantField s.ctl.keyLen.toNat)) (wait := .openWait)
    (cv := some v) (ck := s.ctl.ck) (take := Ctl.takeOpen ⟨true, data⟩) hinbox hslot
    (fun es => State.controllerStep_openReq (s := s.resume s.ctl es) any hq hp) hdecode (fun _ => rfl)
    (fun es => State.controllerStep_openWait (s := s.resume _ es) any hq rfl rfl)
  rw [Ctl.takeOpen_ok rfl] at hrun
  rw [Ctl.opened, hv]
  exact hrun

/-- The core is keyed (R93, R94, R111). -/
theorem run_key (hq : s.ctl.seq = .setup) (hp : s.ctl.ph = .key) (hok : draw.ok = true) :
    core.run 3 s = .next (s.resume (s.ctl.keyed draw) rest) := by
  obtain ⟨ok, data, keyTail⟩ := draw
  obtain rfl : ok = true := hok
  have hkey := requestKey_keyData (key := s.ctl.keyBytes) (by rw [s.ctl.keyBytes_length]; omega) keyTail
  have hrun := run_exchange (q := setKeyRequest s.ctl.keyBytes) (wait := .keyWait) (cv := s.ctl.cv)
    (ck := some (requestKey ⟨BitVec.ofNat 6 s.ctl.keyBytes.length, keyData s.ctl.keyBytes⟩ keyTail))
    (take := Ctl.takeSetKey ⟨true, data⟩) hinbox hslot
    (fun es => State.controllerStep_key (s := s.resume s.ctl es) any hq hp) rfl (fun _ => rfl)
    (fun es => State.controllerStep_keyWait (s := s.resume _ es) any hq rfl rfl)
  rw [hkey, Ctl.takeSetKey_ok rfl] at hrun
  exact hrun

/-- The core is released, and the transform ends without a failure (R100 to R102, R114). -/
theorem run_close (hq : s.ctl.seq = .closing) (hp : s.ctl.ph = .close) (herr : s.ctl.err = .none) :
    core.run 3 s = .next (s.resume (s.ctl.released draw) rest) := by
  have hrun := run_exchange (cv := none) (ck := none) (take := Ctl.takeClose ⟨draw.ok, draw.any⟩) hinbox hslot
    (fun es => State.controllerStep_close (s := s.resume s.ctl es) any hq hp) rfl (fun _ => rfl)
    (fun es => State.controllerStep_closeWait (s := s.resume _ es) any hq rfl rfl)
  rw [Ctl.takeClose_of_clean (c := Ctl.exchanged ..) _ herr, Ctl.commit_iv] at hrun
  rw [Ctl.released, Ctl.commit_iv]
  exact hrun

end Exchanges

/-! ### The setup (R90 to R94) -/

/-- A valid configuration leads from validation to the opening of the core (R90). -/
theorem step_validate {s : State} {any : Block} {es : List Event} (hq : s.ctl.seq = .validating)
    (hp : s.ctl.ph = .none) (hlength : s.ctl.lengthValid = true) (hkeyLen : s.ctl.keyLenValid = true)
    (hinbox : s.inbox = .controller any :: es) :
    step s = .next (s.resume (Ctl.refreshIrq { s.ctl with seq := .setup, ph := .openReq }) es) := by
  have hstep : (s.resume s.ctl es).controllerStep any = s.resume s.ctl.validate.refreshIrq es :=
    State.controllerStep_validating any hq hp
  rw [Ctl.validate_of_valid hlength hkeyLen] at hstep
  exact (step_of_inbox hinbox).trans (congrArg Host.Outcome.next hstep)

/-- The controller with its core open and keyed: at its first block, or at the release (R90 to R94). -/
def Ctl.started (opening keying : CoreDraw) (c : Ctl) : Ctl :=
  (Ctl.opened opening (Ctl.refreshIrq { c with seq := .setup, ph := .openReq })).keyed keying

/-- The seven steps before the first block. -/
theorem run_setup {s : State} {any : Block} {opening keying : CoreDraw} {rest : List Event} (h : s.ctl.Legal)
    (hq : s.ctl.seq = .validating) (hlength : s.ctl.lengthValid = true) (hkeyLen : s.ctl.keyLenValid = true)
    (hopening : opening.ok = true) (hkeying : keying.ok = true)
    (hinbox : s.inbox = setupSchedule any opening keying ++ rest) :
    core.run 7 s = .next (s.resume (s.ctl.started opening keying) rest) := by
  have hp : s.ctl.ph = .none := by simpa [phaseLegal, hq] using h.phase
  have hidle : s.ctl.PortIdle := h.portIdle (by rw [hp]; rfl)
  have hopen := run_open (s := s.resume (Ctl.refreshIrq { s.ctl with seq := .setup, ph := .openReq })
    (releaseSchedule any opening ++ (releaseSchedule any keying ++ rest))) rfl hidle.slot rfl rfl hkeyLen hopening
  rw [run_succ (step_validate hq hp hlength hkeyLen hinbox)]
  exact (run_add (k := 3) hopen).trans (run_key rfl rfl rfl rfl hkeying)

/-- Once its core is keyed the controller is between blocks, before the first (R94). -/
theorem Ctl.keyed_betweenBlocks {c : Ctl} (draw : CoreDraw) (hcount : c.blkcnt = 0#32) :
    (c.keyed draw).BetweenBlocks := by
  by_cases hn : c.length >>> 4 = 0#32
  · simp [Ctl.BetweenBlocks, Ctl.keyed, Ctl.nBlocks, hcount, hn]
  · simp [Ctl.BetweenBlocks, Ctl.keyed, Ctl.nBlocks, hcount, hn, Ne.symm hn]

/-- A transform that has been set up is between blocks, before its first. -/
theorem State.Legal.started_midMessage {s : State} {opening keying : CoreDraw} {es : List Event} (h : s.Legal)
    (hlegal : (s.resume (s.ctl.started opening keying) es).Legal) (hm : s.mem.wf = true)
    (hq : s.ctl.seq = .validating) (hkeyLen : s.ctl.keyLenValid = true) (husable : rangesUsable s s.ctl.nBlocks.toNat)
    (hoverlap : s.ctl.dstAddr = s.ctl.srcAddr ∨
      16 * s.ctl.nBlocks.toNat ≤ (s.ctl.dstAddr - s.ctl.srcAddr).toNat) :
    (s.resume (s.ctl.started opening keying) es).MidMessage where
  legal := hlegal
  mem := hm
  keyed := ⟨hkeyLen, rfl, rfl⟩
  err := h.1.cleanErr (by rw [hq]; rfl)
  position := Ctl.keyed_betweenBlocks keying (h.1.countStart (.inl hq))
  usable := husable
  overlap := hoverlap

/-! ### The whole transform (R80 to R82, R89 to R102) -/

/-- After the last block the count is `n` (R98). -/
theorem State.BlocksDone.blkcnt_eq {s t : State} (h : s.BlocksDone s.ctl.nBlocks.toNat t) :
    t.ctl.blkcnt = s.ctl.nBlocks := by
  rw [h.count, BitVec.ofNat_toNat, BitVec.setWidth_eq]

/-- All the blocks of a message, up to the release (R98). -/
theorem State.MidMessage.run_message {s : State} {blocks : List (Block × CoreDraw)} {rest : List Event}
    (h : s.MidMessage) (hcount : s.ctl.blkcnt = 0#32) (hlen : blocks.length = s.ctl.nBlocks.toNat)
    (hok : ∀ p ∈ blocks, p.2.ok = true) (hinbox : s.inbox = messageSchedule blocks ++ rest) :
    ∃ t, core.run (5 * s.ctl.nBlocks.toNat) s = .next t ∧ t.inbox = rest ∧ t.MidMessage ∧
      s.BlocksDone s.ctl.nBlocks.toNat t ∧ t.ctl.seq = .closing ∧ t.ctl.ph = .close := by
  obtain ⟨t, hrun, hrest, hend, hdone⟩ := run_blocks h hcount hlen hok hinbox le_rfl
  have hlast : t.ctl.blkcnt = s.ctl.nBlocks := hdone.blkcnt_eq
  have hrelease : t.ctl.seq = .closing ∧ t.ctl.ph = .close := by
    simpa [Ctl.BetweenBlocks, hlast, hdone.config.nBlocks] using hend.position
  refine ⟨t, hrun, ?inbox, hend, hdone, hrelease⟩
  case inbox =>
    rw [hrest, List.drop_eq_nil_of_le hlen.le]
    rfl

/-- The steps of a transform from its validation to its end: what its blocks leave, and then the release. -/
theorem run_transform {s : State} {any : Block} {opening keying closing : CoreDraw}
    {blocks : List (Block × CoreDraw)} {rest : List Event} (hlegal : s.Legal) (hm : s.mem.wf = true)
    (hq : s.ctl.seq = .validating) (hlength : s.ctl.lengthValid = true) (hkeyLen : s.ctl.keyLenValid = true)
    (husable : rangesUsable s s.ctl.nBlocks.toNat) (hopening : opening.ok = true) (hkeying : keying.ok = true)
    (hlen : blocks.length = s.ctl.nBlocks.toNat) (hok : ∀ p ∈ blocks, p.2.ok = true)
    (hoverlap : s.ctl.dstAddr = s.ctl.srcAddr ∨ 16 * s.ctl.nBlocks.toNat ≤ (s.ctl.dstAddr - s.ctl.srcAddr).toNat)
    (hinbox : s.inbox = setupSchedule any opening keying ++ messageSchedule blocks ++
      releaseSchedule any closing ++ rest) :
    ∃ t : State, core.run (5 * s.ctl.nBlocks.toNat + 10) s = .next (t.resume (t.ctl.released closing) rest) ∧
      t.ctl.err = .none ∧ s.BlocksDone s.ctl.nBlocks.toNat t := by
  rw [List.append_assoc, List.append_assoc] at hinbox
  have hsetup := run_setup hlegal.1 hq hlength hkeyLen hopening hkeying hinbox
  have hmid := hlegal.started_midMessage (run_keeps stepKeepsLegal hlegal hsetup) hm hq hkeyLen husable hoverlap
  obtain ⟨t, hrun, hrest, hend, hdone, hseq, hph⟩ :=
    hmid.run_message (hlegal.1.countStart (.inl hq)) hlen hok rfl
  have hidle : t.ctl.PortIdle := hend.legal.1.portIdle (by rw [hph]; rfl)
  have hclose := run_close hrest hidle.slot hseq hph hend.err
  refine ⟨t, ?run, hend.err, { hdone with config := { hdone.config with } }⟩
  case run =>
    have hblocks : core.run (7 + 5 * s.ctl.nBlocks.toNat) s = .next t := (run_add hsetup).trans hrun
    have hcount : 5 * s.ctl.nBlocks.toNat + 10 = 7 + 5 * s.ctl.nBlocks.toNat + 3 := by omega
    rw [hcount]
    exact (run_add hblocks).trans hclose

/-- `IgeEnc` or `IgeDec`, by direction, is the run of its chaining step, committed by `CommitIV` (R80 to R82). -/
theorem Ctl.ige_eq (c : Ctl) (iv : Chain) (bs : List Block) :
    (if c.dir = true then igeEnc c.blockFn iv bs else igeDec c.blockFn iv bs) =
      ⟨(chainRun c.chainStepFrom iv bs).outs,
        commitChain c.dir bs.length iv (chainRun c.chainStepFrom iv bs).last⟩ := by
  cases hdir : c.dir
  · have hstep : c.chainStepFrom = decStep c.blockFn := by
      funext p b
      simp [Ctl.chainStepFrom, sel, hdir]
    rw [hstep]
    rfl
  · have hstep : c.chainStepFrom = encStep c.blockFn := by
      funext p b
      simp [Ctl.chainStepFrom, sel, hdir]
    rw [hstep]
    rfl

/-- The IV registers after the release hold what `CommitIV` says (R82, R102). -/
theorem Ctl.released_ivChain (draw : CoreDraw) (c : Ctl) :
    (c.released draw).ivChain = commitChain c.dir c.nBlocks.toNat c.ivChain c.chain := by
  have hiv : (c.released draw).ivChain = ⟨highHalf c.commit.iv, lowHalf c.commit.iv⟩ := rfl
  have hblocks : (c.nBlocks.toNat != 0) = (c.nBlocks != 0#32) :=
    Bool.eq_iff_iff.mpr (by simp [← BitVec.toNat_inj])
  rw [hiv, Ctl.commit_iv, commitChain, hblocks]
  split
  · rw [lowHalf_halvesToRegs, highHalf_halvesToRegs]
    rfl
  · rfl

/-- Settles O59: the run of a transform, read through `CommitIV`. -/
theorem transformIsIge : Obligations.TransformIsIge := by
  intro s any opening keying closing blocks rest n hlegal hm hq hwx hwy hn hlength hkeyLen husable hopening hkeying hlen
    hok hoverlap hinbox
  obtain rfl : n = s.ctl.nBlocks.toNat := hn
  obtain ⟨t, hrun, herr, hdone⟩ := run_transform hlegal hm hq (s.ctl.lengthValid_iff.mpr hlength) hkeyLen husable
    hopening hkeying hlen hok hoverlap hinbox
  have hchain : s.ctl.chain = s.ctl.ivChain := by rw [Ctl.chain, Ctl.ivChain, hwx, hwy]
  have hinputs : (inputBlocks s s.ctl.nBlocks.toNat).length = s.ctl.nBlocks.toNat := by simp [inputBlocks]
  rw [Ctl.ige_eq, ← hchain, hdone.run, hinputs]
  refine ⟨t.resume (t.ctl.released closing) rest, hrun, rfl, rfl, rfl, herr, ?count, rfl, ?outs, ?committed,
    hdone.kept⟩
  case count => exact congrArg BitVec.toNat hdone.blkcnt_eq
  case outs =>
    intro j hj
    rw [List.getElem?_map, List.getElem?_range hj]
    rfl
  case committed =>
    have hiv : t.ctl.ivChain = s.ctl.ivChain := by rw [Ctl.ivChain, hdone.iv, Ctl.ivChain]
    have hcommit := t.ctl.released_ivChain closing
    rw [hdone.config.dir, hdone.config.nBlocks, hiv, ← hchain] at hcommit
    exact hcommit

end Sys2Proof.Machine
end

section
/-! PROOFS. The obligations of spec/42_cipher_port.md on the core's answers: the step that answers (O7), OPEN, SET_KEY
and CLOSE (O20), ENC and DEC (O21). -/

namespace Sys2Proof.Machine

/-! ### The step that answers (R108, R109) -/

/-- Settles O7: the core's step, once the schedule gives it its turn. -/
theorem coreStepRunsDecodedRequest : Obligations.CoreStepRunsDecodedRequest := by
  intro s draw rest q i hinbox hpending hreq hresp hi
  exact (step_of_inbox hinbox).trans
    (coreStep_of_decodeCore (s := { s with inbox := rest }) hpending hreq hresp hi)

/-! ### OPEN, SET_KEY and CLOSE (R110, R111, R114) -/

/-- A `klen` of at most 32 takes its key from `data` alone (R111). -/
theorem requestKey_of_le {klen : BitVec 6} (h : klen.toNat ≤ 32) (data : Vector Byte 32) (tail : Vector Byte 31) :
    requestKey ⟨klen, data⟩ tail = data.toList.take klen.toNat :=
  List.take_append_of_le_length (by simpa using h)

/-- A `klen` above 32 takes all of `data`, and free bytes for the rest (notes/assumptions/12). -/
theorem requestKey_of_gt {klen : BitVec 6} (h : 32 < klen.toNat) (data : Vector Byte 32) (tail : Vector Byte 31) :
    requestKey ⟨klen, data⟩ tail = data.toList ++ tail.toList.take (klen.toNat - 32) := by
  have hdata : data.toList.length = 32 := by simp
  simp only [requestKey, List.take_append, hdata, List.take_of_length_le (hdata.trans_le h.le)]

/-- Settles O20: each answer as the model gives it, the key of SET_KEY by whether `data` holds all of it. -/
theorem coreLifecycleAnswers : Obligations.CoreLifecycleAnswers := by
  intro s v klen data
  refine ⟨rfl, fun hle => ?inData, fun hgt => ?beyondData, rfl⟩
  case inData =>
    rw [← requestKey_of_le hle data s.ctl.draw.keyTail]
    rfl
  case beyondData =>
    rw [← requestKey_of_gt hgt data s.ctl.draw.keyTail]
    rfl

/-! ### ENC and DEC (R112, R113) -/

/-- An opened and keyed core answers the block function of its variant and key when `ok`, and any block when not. -/
theorem Ctl.cipherData_of_keyed {c : Ctl} {v : Variant} {k : List Byte} (hcv : c.cv = some v) (hck : c.ck = some k)
    (f : Variant → List Byte → Block → Block) (t : Block) :
    c.cipherData f t = if c.draw.ok = true then f v k t else c.draw.any := by
  simp only [Ctl.cipherData, hcv, hck]

/-- A core that is not opened or not keyed answers any block (notes/assumptions/9). -/
theorem Ctl.cipherData_of_unkeyed {c : Ctl} (h : c.cv = none ∨ c.ck = none) (f : Variant → List Byte → Block → Block)
    (t : Block) : c.cipherData f t = c.draw.any := by
  rcases h with hcv | hck
  · simp only [Ctl.cipherData, hcv, ite_self]
  · cases hcv : c.cv <;> simp only [Ctl.cipherData, hcv, hck, ite_self]

/-- Settles O21: by whether the core is opened and keyed. -/
theorem coreCipherAnswers : Obligations.CoreCipherAnswers := by
  intro s t
  refine ⟨fun v k hcv hck => ⟨?enc, ?dec⟩, fun hunkeyed i hi => ?unkeyed⟩
  case enc =>
    rw [← Ctl.cipherData_of_keyed hcv hck]
    rfl
  case dec =>
    rw [← Ctl.cipherData_of_keyed hcv hck]
    rfl
  case unkeyed =>
    simp only [List.mem_cons, List.not_mem_nil, or_false] at hi
    rcases hi with rfl | rfl
    · rw [← Ctl.cipherData_of_unkeyed hunkeyed Config.E t]
      rfl
    · rw [← Ctl.cipherData_of_unkeyed hunkeyed Config.D t]
      rfl

end Sys2Proof.Machine
end

section
/-! PROOFS. The obligation of spec/42_cipher_port.md on every step of every agent: the core stays in step with its
transform (O45; R78, R79, R109, R116). -/

namespace Sys2Proof.Machine

/-! ### A controller without an answer to take -/

/-- With the response slot empty, what the core holds and the block about to be written are all there is to keep. -/
theorem Ctl.Tracks.of_unanswered {c : Ctl} (hslot : c.coreResp = none)
    (hopened : c.oracleOpen = true → c.ph ≠ .closeWait → c.cv = variantOfKeyLen c.keyLen.toNat)
    (hkeyed : c.seq = .processing → c.ck = some c.keyBytes)
    (houtput : c.ph = .write → c.outBlk = (c.chainStep c.inBlk).out) : c.Tracks where
  openAnswer _ _ hr := by cases hslot.symm.trans hr
  opened := hopened
  keyAnswer _ _ hr := by cases hslot.symm.trans hr
  keyed := hkeyed
  cipherAnswer _ _ hr := by cases hslot.symm.trans hr
  output := houtput

/-- A core that is not open and has answered nothing is set up for nothing, outside the per-block loop (R34, R116). -/
theorem Ctl.Tracks.of_closed {c : Ctl} (hslot : c.coreResp = none) (hclosed : c.oracleOpen = false)
    (hq : c.seq ≠ .processing) (hp : c.ph ≠ .write) : c.Tracks :=
  .of_unanswered hslot (fun hopen => by cases hclosed.symm.trans hopen) (fun h => absurd h hq) fun h => absurd h hp

/-- The failure path keeps an open core for the release, and needs nothing of a closed one (R99). -/
theorem Ctl.Tracks.fail {c : Ctl} (hslot : c.coreResp = none)
    (hopened : c.oracleOpen = true → c.cv = variantOfKeyLen c.keyLen.toNat) (e : ErrCode) : (c.fail e).Tracks := by
  cases hopen : c.oracleOpen
  · rw [Ctl.fail_of_closed hopen]
    exact .of_closed hslot hopen nofun nofun
  · rw [Ctl.fail_of_open hopen]
    exact .of_unanswered hslot (fun _ _ => hopened hopen) nofun nofun

/-! ### Host operations -/

theorem Ctl.acquire_eq (c : Ctl) : c.acquire = { c with race := c.acquire.race } := by
  unfold Ctl.acquire
  split <;> rfl

/-- While not BUSY a new configuration meets a closed core, and START leaves it closed (R89, R121). -/
theorem Ctl.Configures.tracks {c d : Ctl} (hd : c.Configures d) (hlegal : c.Legal) (hb : c.busy = false) :
    d.Tracks := by
  have hslot : c.coreResp = none := (hlegal.portIdle_of_not_busy hb).slot
  have hclosed : c.oracleOpen = false := hlegal.oracle_of_not_busy hb
  have hq : c.seq ≠ .processing := fun h => by cases hb.symm.trans (congrArg SeqState.busy h)
  have hp : c.ph ≠ .write := by
    rw [hlegal.ph_of_not_busy hb]
    nofun
  cases hd with
  | start => exact .of_closed hslot hclosed nofun nofun
  | control | length | src | dst | keyLen | key | iv => exact .of_closed hslot hclosed hq hp

/-- Every host operation keeps a core in step with its transform. -/
theorem Ctl.Served.tracks {c d : Ctl} {write : Bool} (hd : c.Served write d) (hlegal : c.Legal) (h : c.Tracks) :
    d.Tracks := by
  cases hd with
  | read | dropped | flags | ignored => exact { h with }
  | acquire r =>
    rw [Ctl.acquire_eq]
    exact { h with }
  | configured hb hc => exact { hc.tracks hlegal hb with }

/-! ### Core answers (R109 to R114) -/

/-- The positions in which a controller waits for its core (R88). -/
theorem waiting_positions {q : SeqState} {p : Phase} (h : phaseLegal q p = true) (hw : p.waiting = true) :
    q = .setup ∧ p = .openWait ∨ q = .setup ∧ p = .keyWait ∨ q = .processing ∧ p = .cipherWait ∨
      q = .closing ∧ p = .closeWait := by
  cases q <;> cases p <;> simp_all [phaseLegal, Phase.waiting]

/-- The operation that the core runs next for a waiting controller (R91, R93, R96, R100). -/
inductive Ctl.Awaits (c : Ctl) : Instr → Prop
  | openCore {v : Variant} (hq : c.seq = .setup) (hp : c.ph = .openWait)
      (hv : variantOfKeyLen c.keyLen.toNat = some v) : Ctl.Awaits c (.coreOpen v)
  | setKey (hq : c.seq = .setup) (hp : c.ph = .keyWait) :
      Ctl.Awaits c (.coreSetKey ⟨BitVec.ofNat 6 c.keyBytes.length, keyData c.keyBytes⟩)
  | cipher (hq : c.seq = .processing) (hp : c.ph = .cipherWait) :
      Ctl.Awaits c (if c.dir then .coreEnc c.cipherInput else .coreDec c.cipherInput)
  | close (hq : c.seq = .closing) (hp : c.ph = .closeWait) : Ctl.Awaits c .coreClose

/-- The request that a legal controller has pending decodes to the operation it awaits (R35, R66). -/
theorem Ctl.Legal.awaits {c : Ctl} {q : CoreWord} {i : Instr} (h : c.Legal) (hreq : c.coreReq = some q)
    (hpending : c.corePending = true) (hslot : c.coreResp = none) (hi : decodeCore q = .ok i) : c.Awaits i := by
  have hawaited : c.awaitedRequest = some q := by
    rw [← hreq, h.request]
    simp [hpending, hslot]
  unfold Ctl.awaitedRequest at hawaited
  obtain ⟨hq, hp⟩ | ⟨hq, hp⟩ | ⟨hq, hp⟩ | ⟨hq, hp⟩ := waiting_positions h.phase (h.pending.symm.trans hpending) <;>
    rw [hp] at hawaited <;> cases hawaited
  · obtain ⟨v, hv⟩ := variantOfKeyLen_of_valid (h.config (by rw [hq]; rfl)).2
    rw [variantField, hv] at hi
    cases (decode_encode (.coreOpen v)).symm.trans hi
    exact .openCore hq hp hv
  · cases hi
    exact .setKey hq hp
  · cases (decodeCore_cipherRequest c.dir c.cipherInput).symm.trans hi
    exact .cipher hq hp
  · cases hi
    exact .close hq hp

/-- A legal controller whose core tracks it has a keyed core throughout the per-block loop (R116). -/
theorem Ctl.Tracks.coreKeyed_of_processing {c : Ctl} (h : c.Tracks) (hlegal : c.Legal) (hq : c.seq = .processing) :
    c.CoreKeyed := by
  have hopen : c.oracleOpen = true := hlegal.open_of_processing hq
  have hp : c.ph ≠ .closeWait := fun hp => by
    have hphase := hlegal.phase
    rw [hq, hp] at hphase
    cases hphase
  exact ⟨(hlegal.of_open hopen).2.2, h.opened hopen hp, h.keyed hq⟩

section Answers
variable {c : Ctl} (cv : Option Variant) (ck : Option (List Byte)) (draw : CoreDraw) (ok : Bool) (data : Block)

/-- The answer to OPEN: a core that answers `ok` holds the variant (R110). -/
theorem Ctl.Legal.openAnswered_tracks (hlegal : c.Legal) (hq : c.seq = .setup) (hp : c.ph = .openWait)
    (hcv : ok = true → cv = variantOfKeyLen c.keyLen.toNat) :
    (Ctl.coreAnswer ok data { c with cv := cv, ck := ck, draw := draw }).refreshIrq.Tracks where
  openAnswer r _ hr hok := by
    cases hr
    exact hcv hok
  opened hopen := by
    have hclosed : c.oracleOpen = false := by rw [hlegal.oracle, hq, hp]; rfl
    cases hclosed.symm.trans hopen
  keyAnswer _ hp' := by cases hp.symm.trans hp'
  keyed hq' := by cases hq.symm.trans hq'
  cipherAnswer _ hp' := by cases hp.symm.trans hp'
  output hp' := by cases hp.symm.trans hp'

/-- The answer to SET_KEY: a core that answers `ok` holds the key (R111). -/
theorem Ctl.Tracks.keyAnswered (h : c.Tracks) (hq : c.seq = .setup) (hp : c.ph = .keyWait)
    (hck : ok = true → ck = some c.keyBytes) :
    (Ctl.coreAnswer ok data { c with ck := ck, draw := draw }).refreshIrq.Tracks :=
  { h with
    openAnswer := fun _ hp' => by cases hp.symm.trans hp'
    keyAnswer := fun r _ hr hok => by
      cases hr
      exact hck hok
    keyed := fun hq' => by cases hq.symm.trans hq'
    cipherAnswer := fun _ hp' => by cases hp.symm.trans hp' }

/-- The answer to ENC or DEC: a core that answers `ok` gives the block function of the block sent (R112, R113). -/
theorem Ctl.Tracks.cipherAnswered (h : c.Tracks) (hp : c.ph = .cipherWait)
    (hdata : ok = true → data = c.blockFn c.cipherInput) :
    (Ctl.coreAnswer ok data { c with draw := draw }).refreshIrq.Tracks :=
  { h with
    openAnswer := fun _ hp' => by cases hp.symm.trans hp'
    keyAnswer := fun _ hp' => by cases hp.symm.trans hp'
    cipherAnswer := fun r _ hr hok => by
      cases hr
      exact hdata hok }

/-- The answer to CLOSE: nothing is left to keep (R114). -/
theorem Ctl.closeAnswered_tracks (hq : c.seq = .closing) (hp : c.ph = .closeWait) :
    (Ctl.coreAnswer ok data { c with cv := cv, ck := ck, draw := draw }).refreshIrq.Tracks where
  openAnswer _ hp' := by cases hp.symm.trans hp'
  opened _ hp' := absurd hp hp'
  keyAnswer _ hp' := by cases hp.symm.trans hp'
  keyed hq' := by cases hq.symm.trans hq'
  cipherAnswer _ hp' := by cases hp.symm.trans hp'
  output hp' := by cases hp.symm.trans hp'

end Answers

/-- The operation awaited, run with any draw, keeps the core in step with its transform. -/
theorem Ctl.Awaits.tracks {s t : State} {i : Instr} {draw : CoreDraw} (hi : s.ctl.Awaits i) (hlegal : s.ctl.Legal)
    (h : s.ctl.Tracks) (ht : exec i (s.mapCtl fun c => { c with draw := draw }) = .next t) : t.ctl.Tracks := by
  cases hi with
  | openCore hq hp hv =>
    cases ht
    exact hlegal.openAnswered_tracks _ s.ctl.ck draw _ _ hq hp fun hok => (if_pos hok).trans hv.symm
  | setKey hq hp =>
    have hkey := requestKey_keyData (key := s.ctl.keyBytes) (by rw [s.ctl.keyBytes_length]; omega) draw.keyTail
    cases ht
    exact h.keyAnswered _ draw _ _ hq hp fun hok => (if_pos hok).trans (congrArg some hkey)
  | cipher hq hp =>
    have hkeyed : Ctl.CoreKeyed { s.ctl with draw := draw } := { h.coreKeyed_of_processing hlegal hq with }
    rw [exec_cipher] at ht
    cases ht
    exact h.cipherAnswered draw _ _ hp fun hok => hkeyed.cipherData hok s.ctl.cipherInput
  | close hq hp =>
    cases ht
    exact Ctl.closeAnswered_tracks none none draw _ _ hq hp

/-! ### Controller steps (R88) -/

/-- Validation leaves the core closed: it fails at once, or goes on to open it (R90). -/
theorem Ctl.Legal.validate_tracks {c : Ctl} (hlegal : c.Legal) (hq : c.seq = .validating) (hp : c.ph = .none) :
    c.validate.Tracks := by
  have hslot : c.coreResp = none := (hlegal.portIdle (by rw [hp]; rfl)).slot
  have hclosed : c.oracleOpen = false := by rw [hlegal.oracle, hq]; rfl
  have hfailed : ∀ e, (c.fail e).Tracks := .fail hslot fun hopen => by cases hclosed.symm.trans hopen
  by_cases hlength : c.lengthValid = true
  · by_cases hkeyLen : c.keyLenValid = true
    · rw [Ctl.validate_of_valid hlength hkeyLen]
      exact .of_closed hslot hclosed nofun nofun
    · rw [Ctl.validate_of_keyLen hlength hkeyLen]
      exact hfailed _
  · rw [Ctl.validate_of_length hlength]
    exact hfailed _

/-- The OPEN response is taken: the core holds the variant when it answered `ok` (R92). -/
theorem Ctl.Tracks.takeOpen {c : Ctl} {r : CoreResp} (h : c.Tracks) (hlegal : c.Legal) (hq : c.seq = .setup)
    (hp : c.ph = .openWait) (hr : c.coreResp = some r) : (c.takeOpen r).Tracks := by
  cases hok : r.ok
  · have hclosed : c.oracleOpen = false := by rw [hlegal.oracle, hq, hp]; rfl
    rw [Ctl.takeOpen_failed hok]
    exact .fail (c := c.consume) rfl (fun hopen => by cases hclosed.symm.trans hopen) _
  · rw [Ctl.takeOpen_ok hok]
    exact .of_unanswered rfl (fun _ _ => h.openAnswer r hp hr hok) (fun hq' => by cases hq.symm.trans hq') nofun

/-- The SET_KEY response is taken: the core holds the key when it answered `ok` (R94). -/
theorem Ctl.Tracks.takeSetKey {c : Ctl} {r : CoreResp} (h : c.Tracks) (hp : c.ph = .keyWait)
    (hr : c.coreResp = some r) : (c.takeSetKey r).Tracks := by
  have hopened : c.oracleOpen = true → c.cv = variantOfKeyLen c.keyLen.toNat :=
    fun hopen => h.opened hopen (by rw [hp]; nofun)
  cases hok : r.ok
  · rw [Ctl.takeSetKey_failed hok]
    exact .fail (c := c.consume) rfl hopened _
  · rw [Ctl.takeSetKey_ok hok]
    refine .of_unanswered rfl (fun hopen _ => hopened hopen) (fun _ => h.keyAnswer r hp hr hok) fun hwrite => ?_
    dsimp only at hwrite
    split at hwrite <;> cases hwrite

/-- In the per-block loop an empty port and no block to write leave only what the core holds to keep (R116). -/
theorem Ctl.Tracks.betweenAnswers {c d : Ctl} (h : c.Tracks) (hlegal : c.Legal) (hq : c.seq = .processing)
    (hkept : c.ConfigKept d) (hcv : d.cv = c.cv) (hck : d.ck = c.ck) (hslot : d.coreResp = none)
    (hp : d.ph ≠ .write) : d.Tracks := by
  have hkeyed : d.CoreKeyed := (h.coreKeyed_of_processing hlegal hq).of_kept hkept hcv hck
  exact .of_unanswered hslot (fun _ _ => hkeyed.variant) (fun _ => hkeyed.key) fun hwrite => absurd hwrite hp

/-- The cipher response is taken: the second XOR of the block function's answer makes the chaining step (R97). -/
theorem Ctl.Tracks.takeCipher {c : Ctl} {r : CoreResp} (h : c.Tracks) (hlegal : c.Legal) (hq : c.seq = .processing)
    (hp : c.ph = .cipherWait) (hr : c.coreResp = some r) : (c.takeCipher r).Tracks := by
  have hkeyed : c.CoreKeyed := h.coreKeyed_of_processing hlegal hq
  cases hok : r.ok
  · rw [Ctl.takeCipher_failed hok]
    exact .fail (c := c.consume) rfl (fun _ => hkeyed.variant) _
  · rw [Ctl.takeCipher_ok hok]
    have houtput : xor16 r.data c.postHalf = (c.chainStep c.inBlk).out := by
      rw [h.cipherAnswer r hp hr hok, Ctl.chainStep_out, Ctl.cipherInput]
    exact .of_unanswered rfl (fun _ _ => hkeyed.variant) (fun _ => hkeyed.key) fun _ => houtput

/-- The output block has been written: the next one is fetched, or the core is released (R98). -/
theorem Ctl.Tracks.finishBlock {c : Ctl} (h : c.Tracks) (hlegal : c.Legal) (hq : c.seq = .processing)
    (hp : c.ph = .write) : c.finishBlock.Tracks := by
  have hslot : c.coreResp = none := (hlegal.portIdle (by rw [hp]; rfl)).slot
  refine h.betweenAnswers hlegal hq (by constructor <;> simp) (by simp) (by simp) (by simpa using hslot) ?_
  rw [Ctl.finishBlock_eq hq]
  dsimp only
  split <;> nofun

/-- The CLOSE response is taken: the transform ends with the core closed (R101). -/
theorem Ctl.takeClose_tracks (c : Ctl) (r : CoreResp) : (c.takeClose r).Tracks := by
  by_cases herr : c.err = .none
  · rw [Ctl.takeClose_of_clean r herr]
    exact .of_closed rfl rfl nofun nofun
  · rw [Ctl.takeClose_of_err r herr]
    exact .of_closed rfl rfl nofun nofun

/-- Every controller step keeps a core in step with its transform (R88). -/
theorem Ctl.Moves.tracks {c d : Ctl} (hd : c.Moves d) (hlegal : c.Legal) (h : c.Tracks) : d.Tracks := by
  have hslot : c.ph.waiting = false → c.coreResp = none := fun hw => (hlegal.portIdle hw).slot
  cases hd with
  | stay _ => exact h
  | validate hq hp => exact hlegal.validate_tracks hq hp
  | issueOpen hq hp =>
    have hclosed : c.oracleOpen = false := by rw [hlegal.oracle, hq, hp]; rfl
    exact .of_closed (hslot (by rw [hp]; rfl)) hclosed (fun hq' => by cases hq.symm.trans hq') nofun
  | takeOpen r hq hp hr => exact h.takeOpen hlegal hq hp hr
  | issueSetKey hq hp =>
    exact .of_unanswered (hslot (by rw [hp]; rfl)) (fun hopen _ => h.opened hopen (by rw [hp]; nofun))
      (fun hq' => by cases hq.symm.trans hq') nofun
  | takeSetKey r hq hp hr => exact h.takeSetKey hp hr
  | fetch b hq hp =>
    exact h.betweenAnswers hlegal hq ⟨rfl, rfl, rfl, rfl, rfl, rfl, rfl⟩ rfl rfl (hslot (by rw [hp]; rfl)) nofun
  | refused written hq hp =>
    have hidle : c.coreResp = none := hslot (by rcases hp with hp | hp <;> rw [hp] <;> rfl)
    have hfailed := Ctl.Tracks.fail hidle (fun _ => (h.coreKeyed_of_processing hlegal hq).variant) .memoryAccessFailure
    exact { hfailed with }
  | issueCipher hq hp =>
    exact h.betweenAnswers hlegal hq ⟨rfl, rfl, rfl, rfl, rfl, rfl, rfl⟩ rfl rfl (hslot (by rw [hp]; rfl)) nofun
  | takeCipher r hq hp hr => exact h.takeCipher hlegal hq hp hr
  | finishBlock hq hp => exact h.finishBlock hlegal hq hp
  | issueClose hq hp =>
    exact .of_unanswered (hslot (by rw [hp]; rfl)) (fun _ hwait => absurd rfl hwait)
      (fun hq' => by cases hq.symm.trans hq') nofun
  | takeClose r hq hp hr => exact c.takeClose_tracks r

/-! ### What every agent's step keeps of every controller -/

/-- A property of one controller that no agent's step breaks while the controller is legal. -/
structure KeptByAgents (P : Ctl → Prop) : Prop where
  served {c d : Ctl} {write : Bool} : c.Legal → P c → c.Served write d → P d
  marked {c : Ctl} (a : Addr) : P c → P (c.markForeign a)
  moved {c d : Ctl} : c.Legal → P c → c.Moves d → P d.refreshIrq
  answered {s t : State} {i : Instr} {draw : CoreDraw} : s.ctl.Legal → P s.ctl → s.ctl.Awaits i →
    exec i (s.mapCtl fun c => { c with draw := draw }) = .next t → P t.ctl
  reset (base : HostAddr) : P (Ctl.atReset base)

/-- Every controller of the machine has a property. -/
def State.Every (P : Ctl → Prop) (s : State) : Prop :=
  P s.ctl ∧ ∀ c ∈ s.others, P c

section Agents
variable {P : Ctl → Prop}

/-- A property stays with the others when another controller that has it takes the place of one of them. -/
theorem State.Every.set_other {s : State} {d : Ctl} (h : s.Every P) (hd : P d) (k : Nat) :
    ∀ c ∈ s.others.set k d, P c := by
  intro c hc
  rcases List.mem_or_eq_of_mem_set hc with hc | rfl
  · exact h.2 c hc
  · exact hd

theorem State.Every.select {s : State} (h : s.Every P) (k : Nat) : (s.select k).Every P := by
  cases hk : s.others[k]? with
  | none => rwa [State.select_none hk]
  | some c =>
    rw [State.select_some hk]
    exact ⟨h.2 c (List.mem_of_getElem? hk), h.set_other h.1 k⟩

/-- A property kept one by one from list to list is kept of all. -/
theorem forall_mem_of_forall₂ {cs ds : List Ctl} (h : List.Forall₂ (fun c d => P c → P d) cs ds)
    (hcs : ∀ c ∈ cs, P c) : ∀ d ∈ ds, P d := by
  induction h with
  | nil => exact hcs
  | cons hcd _ ih =>
    rw [List.forall_mem_cons] at hcs ⊢
    exact ⟨hcd hcs.1, ih hcs.2⟩

variable (hP : KeptByAgents P)
include hP

theorem KeptByAgents.hostStep {s t : State} {acc : HostAccess} (hlegal : s.Legal) (h : s.Every P)
    (ht : hostStep acc s = .next t) : t.Every P := by
  have hserved : ∀ {c d : Ctl}, c.Legal → P c → c.Served acc.write d ∨ d = c.answer .slaveError → P d := by
    rintro c d hc hPc (hd | rfl)
    · exact hP.served hc hPc hd
    · exact hP.served hc hPc (.read _)
  rcases hostStep_next acc s with ⟨-, d, hd, hnext⟩ | ⟨k, c, d, -, hc, hd, hnext⟩
  · cases hnext.symm.trans ht
    exact ⟨hserved hlegal.1 h.1 hd, h.2⟩
  · cases hnext.symm.trans ht
    have hmem : c ∈ s.others := List.mem_of_getElem? hc
    exact ⟨h.1, h.set_other (hserved (hlegal.2 c hmem) (h.2 c hmem) hd) k⟩

theorem KeptByAgents.controllerStep {s : State} (hlegal : s.Legal) (h : s.Every P) (any : Block) :
    (s.controllerStep any).Every P := by
  obtain ⟨d, hd, hctl⟩ := s.controllerStep_moves any
  refine ⟨hctl ▸ hP.moved hlegal.1 h.1 hd, ?_⟩
  obtain ⟨-, -, -, ⟨-, hothers⟩ | ⟨-, -, hothers⟩⟩ := s.controllerStep_rest any
  · exact hothers ▸ h.2
  · rw [hothers]
    exact forall_mem_of_forall₂ (s.writeBytes_others (fun c d => P c → P d) (fun _ => id)
      (fun a _ _ hcd hc => hP.marked a (hcd hc)) _ _ _ _) h.2

theorem KeptByAgents.coreStep {s t : State} {draw : CoreDraw} (hlegal : s.Legal) (h : s.Every P)
    (ht : coreStep draw s = .next t) : t.Every P := by
  obtain rfl | ⟨q, i, hreq, hpending, hslot, hi, hexec⟩ := coreStep_next ht
  · exact h
  · refine ⟨hP.answered hlegal.1 h.1 (hlegal.1.awaits hreq hpending hslot hi) hexec, ?_⟩
    obtain ⟨d, -, hnext⟩ := exec_latchesKept i (s.mapCtl fun c => { c with draw := draw })
    cases hnext.symm.trans hexec
    exact h.2

theorem KeptByAgents.hostStore {s : State} (h : s.Every P) (a : Addr) (v any : Byte) :
    (s.hostStore a v any).Every P := by
  refine ⟨hP.marked a h.1, fun d hd => ?_⟩
  obtain ⟨c, hc, rfl⟩ := List.mem_map.mp hd
  exact hP.marked a (h.2 c hc)

theorem KeptByAgents.resetStep {s : State} (h : s.Every P) (part : Nat) (any : Block) :
    (s.resetStep part any).Every P := by
  refine ⟨(s.resetStep_frame part any).1 ▸ hP.reset _, ?_⟩
  exact forall_mem_of_forall₂ (s.resetStep_others (fun c d => P c → P d) (fun _ => id)
    (fun a _ _ hcd hc => hP.marked a (hcd hc)) part any) h.2

/-- Every agent's step keeps the property of every controller of a legal machine. -/
theorem KeptByAgents.runEvent {s t : State} {e : Event} (hlegal : s.Legal) (h : s.Every P)
    (ht : runEvent e s = .next t) : t.Every P := by
  cases e with
  | host acc => exact hP.hostStep hlegal h ht
  | hostLoad a any => cases ht; exact h
  | hostStore a v any => cases ht; exact hP.hostStore h a v any
  | controller any => cases ht; exact hP.controllerStep hlegal h any
  | core draw => exact hP.coreStep hlegal h ht
  | platform deny => cases ht; exact h
  | select k => cases ht; exact h.select k
  | reset part any => cases ht; exact hP.resetStep h part any

/-- Every step of the machine keeps the property of every controller. -/
theorem KeptByAgents.step {s t : State} (hlegal : s.Legal) (h : s.Every P) (ht : step s = .next t) :
    t.Every P := by
  cases hinbox : s.inbox with
  | nil =>
    rw [Machine.step, hinbox] at ht
    cases ht
    exact h
  | cons e rest =>
    rw [step_of_inbox hinbox] at ht
    exact hP.runEvent (s := { s with inbox := rest }) hlegal h ht

end Agents

/-- No agent's step breaks that a core is in step with its transform. -/
theorem tracks_keptByAgents : KeptByAgents Ctl.Tracks where
  served hlegal h hd := hd.tracks hlegal h
  marked a h := by
    rw [Ctl.markForeign_eq]
    exact { h with }
  moved hlegal h hd := { hd.tracks hlegal h with }
  answered hlegal h hi ht := hi.tracks hlegal h ht
  reset _ := .of_closed rfl rfl nofun nofun

/-- Settles O45: by the agent whose step is taken, and for a controller step by the row of R88. -/
theorem stepKeepsTracks : Obligations.StepKeepsTracks :=
  fun _ _ hlegal h ht => tracks_keptByAgents.step hlegal h ht

end Sys2Proof.Machine
end

section
/-! PROOFS. The obligations of spec/43_host_interface.md: which operation a host access runs (O6), what the reads return
(O11, O12), and what the writes do (O14 to O18). -/

namespace Sys2Proof.Machine

/-! ### The operation that an access runs (R63, R120) -/

/-- Settles O6: the address decides whose access it is, and its access word which operation that controller runs. -/
theorem hostAccessRunsDecodedOperation : Obligations.HostAccessRunsDecodedOperation := by
  intro s acc rest i hinbox hsize
  rw [step_of_inbox hinbox]
  refine ⟨?selected, ?other⟩
  case selected =>
    intro haligned hlast hi
    have hin : s.ctl.inWindow acc.addr = true := decide_eq_true (Nat.lt_of_le_of_lt hlast (by decide))
    exact (hostStep_of_inWindow (s := { s with inbox := rest }) hin).trans
      (registerAccess_of_decodeHost hsize haligned hlast hi)
  case other =>
    intro k c hc hsel honly haligned hlast hi
    have hk := State.instanceAt_of_only (s := { s with inbox := rest }) hc
      (Nat.lt_of_le_of_lt hlast (by decide)) hsel honly
    have hrun := registerAccess_of_decodeHost (acc := acc)
      (s := { s with inbox := rest, ctl := c, others := s.others.set k s.ctl }) hsize haligned hlast hi
    obtain ⟨d, -, hd⟩ := exec_host i { s with inbox := rest, ctl := c, others := s.others.set k s.ctl }
      (decodeHost_port hi).1
    exact ⟨d, hd, hostStep_of_other hk hc (hrun.trans hd)⟩

/-! ### Reads (R122 to R141) -/

/-- What a read returns is all it leaves, beside the recomputed interrupt line (R120). -/
theorem hostRead_eq (w : Ctl → Word) (s : State) :
    hostRead w s = .next { s with ctl := { s.ctl with
      hostResp := .data (w s.ctl), irq := s.ctl.ie && s.ctl.done } } :=
  rfl

/-- Settles O11: each of the nine is a read of one word. -/
theorem hostReadsReturnTheRegisters : Obligations.HostReadsReturnTheRegisters :=
  fun s n => ⟨hostRead_eq _ s, hostRead_eq _ s, hostRead_eq _ s, hostRead_eq _ s, hostRead_eq _ s, hostRead_eq _ s,
    hostRead_eq _ s, hostRead_eq (fun _ => 0#32) s, hostRead_eq (·.iv.get n) s⟩

/-- Settles O12: the acquire changes the note of races alone, and that only where `DONE = 1`. -/
theorem statusReadReturnsTheFlags : Obligations.StatusReadReturnsTheFlags := by
  intro s
  change Host.Outcome.next (s.mapCtl fun _ => s.ctl.acquire.answer (.data s.ctl.statusWord)) = _
  rw [Ctl.acquire_eq, Ctl.acquire_race]
  rfl

/-! ### Configuration writes (R121, R123, R130 to R140) -/

/-- While not BUSY a configuration write has its effect. -/
theorem hostWrite_configWrite_of_not_busy {s : State} (hb : s.ctl.busy = false) (f : Ctl → Ctl) :
    hostWrite (Ctl.configWrite f) s = .next (s.mapCtl fun c => (f c).answer .ack) := by
  simp [hostWrite, State.mapCtl, Ctl.configWrite, hb]

/-- While BUSY a configuration write is ignored, whatever its effect would be. -/
theorem hostWrite_configWrite_of_busy {s : State} (hb : s.ctl.busy = true) (f : Ctl → Ctl) :
    hostWrite (Ctl.configWrite f) s = .next s.ignoreWrite := by
  simp [hostWrite, State.ignoreWrite, State.mapCtl, Ctl.configWrite, hb]

/-- While BUSY every configuration write is ignored, a START among them. -/
theorem exec_configWrites_of_busy {s : State} {i : Instr} {d : Word} {n : Fin 8} (hb : s.ctl.busy = true)
    (hi : i ∈ configWrites d n) : exec i s = .next s.ignoreWrite := by
  simp only [configWrites, List.mem_cons, List.not_mem_nil, or_false] at hi
  rcases hi with rfl | rfl | rfl | rfl | rfl | rfl | rfl <;> exact hostWrite_configWrite_of_busy hb _

/-- A `CTRL` write with `START = 0` sets `DIR` and `IE` (R123). -/
theorem Ctl.writeCtrl_of_no_start {d : Word} (h : d.getLsbD 0 = false) (rivals : List BufferWindow) (c : Ctl) :
    c.writeCtrl rivals d = { c with dir := d.getLsbD 1, ie := d.getLsbD 2 } :=
  if_neg (ne_true_of_eq_false h)

/-- A `CTRL` write with `START = 1` starts a transform in the direction it sets (R89, R123). -/
theorem Ctl.writeCtrl_of_start {d : Word} (h : d.getLsbD 0 = true) (rivals : List BufferWindow) (c : Ctl) :
    c.writeCtrl rivals d = Ctl.acceptStart rivals { c with dir := d.getLsbD 1, ie := d.getLsbD 2 } :=
  if_pos h

/-- With `DONE = 0` the interrupt line is low after an access, whatever `IE` is (R36). -/
theorem Ctl.answer_of_not_done {c : Ctl} (h : c.done = false) (r : HostResponse) :
    c.answer r = { c with hostResp := r, irq := false } := by
  simp [Ctl.answer, Ctl.refreshIrq, h]

/-- Settles O14: by `START`; an accepted START leaves `DONE` and with it the interrupt line at 0. -/
theorem controlWriteStartsATransform : Obligations.ControlWriteStartsATransform := by
  intro s d hb
  have hexec : exec (.wrCtrl d) s =
      .next (s.mapCtl fun c => (c.writeCtrl s.runningElsewhere d).answer .ack) :=
    hostWrite_configWrite_of_not_busy hb _
  refine ⟨fun h0 => ?set, fun h1 => ?start⟩
  case set =>
    simp only [hexec, Ctl.writeCtrl_of_no_start h0]
    rfl
  case start =>
    simp only [hexec, Ctl.writeCtrl_of_start h1, Ctl.answer_of_not_done (Ctl.acceptStart_done _ _)]
    rfl

/-- Settles O15: each of the six is a configuration write. -/
theorem configurationWritesSetTheirRegister : Obligations.ConfigurationWritesSetTheirRegister := by
  intro s n d hb
  have hwrite := hostWrite_configWrite_of_not_busy hb
  exact ⟨hwrite _, hwrite _, hwrite _, hwrite _, hwrite _, hwrite _⟩

/-! ### The writes that act in every state (R125, R127, R141) -/

/-- A write without effect is acknowledged, and leaves nothing but the answer and the recomputed interrupt line. -/
theorem hostWrite_id (s : State) :
    hostWrite id s = .next { s with ctl := { s.ctl with hostResp := .ack, irq := s.ctl.ie && s.ctl.done } } :=
  rfl

/-- Settles O16: the configuration writes are ignored, and the others do not look at BUSY. -/
theorem writesWhileBusySetWbusy : Obligations.WritesWhileBusySetWbusy := by
  intro s n d hb
  refine ⟨fun i hi => exec_configWrites_of_busy hb hi, fun i hi => ?dropped, rfl⟩
  case dropped =>
    simp only [List.mem_cons, List.not_mem_nil, or_false] at hi
    rcases hi with rfl | rfl | rfl <;> exact hostWrite_id s

/-- Writing 1 to a flag's bit clears it, and writing 0 leaves it (R125). -/
theorem Ctl.clearFlags_eq (d : Word) (c : Ctl) :
    c.clearFlags d = { c with
      done := if d.getLsbD 1 = true then false else c.done
      wbusy := if d.getLsbD 2 = true then false else c.wbusy } := by
  simp [Ctl.clearFlags, Bool.and_comm]

/-- Settles O17: both flags are cleared by ones, and the interrupt line follows `DONE`. -/
theorem statusWriteClearsFlags : Obligations.StatusWriteClearsFlags :=
  fun s d => congrArg (fun c => Host.Outcome.next (s.mapCtl fun _ => Ctl.answer .ack c)) (Ctl.clearFlags_eq d s.ctl)

/-- Settles O18: three writes without effect, and a read of 0. -/
theorem readOnlyAndReservedAccesses : Obligations.ReadOnlyAndReservedAccesses :=
  fun s _ _ => ⟨hostWrite_id s, hostWrite_id s, hostWrite_id s, hostRead_eq (fun _ => 0#32) s⟩

end Sys2Proof.Machine
end

section
/-! PROOFS. The obligations of spec/60_exceptions.md: the first failure is the one reported (O51), and the controllers of
a machine are independent of each other (O54). -/

namespace Sys2Proof.Machine

/-! ### The result code (R144, R155) -/

/-- No controller step out of CLOSING or FAILED changes the result code (R100, R101). -/
theorem Ctl.Moves.err_kept {c d : Ctl} (h : c.Moves d) (hclean : c.seq.clean = false) : d.err = c.err := by
  cases h with
  | stay | issueClose => rfl
  | takeClose r =>
    by_cases herr : c.err = .none
    · rw [Ctl.takeClose_of_clean r herr]
      rfl
    · rw [Ctl.takeClose_of_err r herr]
      rfl
  | validate hq | issueOpen hq | takeOpen _ hq | issueSetKey hq | takeSetKey _ hq | fetch _ hq | refused _ hq
  | issueCipher hq | takeCipher _ hq | finishBlock hq => cases hclean.symm.trans (congrArg SeqState.clean hq)

/-- Settles O51: a recorded failure puts the controller in CLOSING or FAILED, whose steps keep the code. -/
theorem firstFailureIsReported : Obligations.FirstFailureIsReported := by
  intro s any hlegal herr
  obtain ⟨d, hd, hctl⟩ := s.controllerStep_moves any
  have hclean : s.ctl.seq.clean = false := Bool.eq_false_of_not_eq_true fun h => herr (hlegal.1.cleanErr h)
  rw [hctl, Ctl.refreshIrq_err]
  exact hd.err_kept hclean

/-! ### What a step leaves of the other controllers (R159) -/

/-- Every register, every latch and the core are the same: only the note of racing writes may differ. -/
def Ctl.SameButForeign (c d : Ctl) : Prop :=
  { d with race := { d.race with foreign := c.race.foreign } } = c

theorem Ctl.SameButForeign.refl (c : Ctl) : c.SameButForeign c :=
  rfl

/-- Controllers that no step reaches are as they were. -/
theorem Ctl.SameButForeign.all_refl (cs : List Ctl) : List.Forall₂ Ctl.SameButForeign cs cs :=
  List.forall₂_same.mpr fun c _ => .refl c

theorem Ctl.SameButForeign.markForeign {c d : Ctl} (a : Addr) (h : c.SameButForeign d) :
    c.SameButForeign (d.markForeign a) := by
  rw [Ctl.markForeign_eq]
  exact h

/-- An address that belongs to another controller lies in that controller's window. -/
theorem State.inWindow_of_instanceAt {s : State} {a : HostAddr} {k : Nat} {c : Ctl} (hk : s.instanceAt a = some k)
    (hc : s.others[k]? = some c) : c.inWindow a = true := by
  unfold State.instanceAt at hk
  split at hk
  · cases hk
  · obtain ⟨_, hin, -⟩ := List.findIdx?_eq_some_iff_getElem.mp hk
    obtain ⟨_, rfl⟩ := List.getElem?_eq_some_iff.mp hc
    exact hin

/-- A host register access leaves every other controller as it was, save the one in whose window the address lies. -/
theorem hostStep_others {s t : State} {acc : HostAccess} (h : hostStep acc s = .next t) :
    List.Forall₂ (fun c d => c.inWindow acc.addr = false → c.SameButForeign d) s.others t.others := by
  rcases hostStep_next acc s with ⟨-, d, -, hnext⟩ | ⟨k, c, d, hk, hc, -, hnext⟩ <;> cases hnext.symm.trans h
  · exact List.forall₂_same.mpr fun c _ _ => .refl c
  · refine List.forall₂_iff_get.mpr ⟨(List.length_set ..).symm, fun j hj _ hout => ?_⟩
    have hne : k ≠ j := by
      rintro rfl
      cases (State.inWindow_of_instanceAt hk (List.getElem?_eq_getElem hj)).symm.trans hout
    simp [List.getElem_set_ne hne, Ctl.SameButForeign.refl]

/-- A controller step reaches the others only through the bytes it writes. -/
theorem State.controllerStep_others (s : State) (any : Block) :
    List.Forall₂ Ctl.SameButForeign s.others (s.controllerStep any).others := by
  obtain ⟨-, -, -, ⟨-, hothers⟩ | ⟨-, -, hothers⟩⟩ := s.controllerStep_rest any <;> rw [hothers]
  · exact Ctl.SameButForeign.all_refl _
  · exact s.writeBytes_others _ .refl (fun a _ _ => .markForeign a) _ _ _ _

/-- The core's answer reaches no other controller. -/
theorem coreStep_others {s t : State} {draw : CoreDraw} (h : coreStep draw s = .next t) : t.others = s.others := by
  obtain rfl | ⟨q, i, -, -, -, hi, hexec⟩ := coreStep_next h
  · rfl
  · obtain ⟨cv, ck, ok, data, hnext⟩ := exec_core i (s.mapCtl fun c => { c with draw := draw }) (decodeCore_port hi)
    cases hnext.symm.trans hexec
    rfl

/-- A host store reaches the others as a write to note. -/
theorem State.hostStore_others (s : State) (a : Addr) (v any : Byte) :
    List.Forall₂ Ctl.SameButForeign s.others (s.hostStore a v any).others :=
  List.forall₂_map_right_iff.mpr ((Ctl.SameButForeign.all_refl _).imp fun _ _ hcd => hcd.markForeign a)

/-- The event does not address a controller: it is no host register access in the controller's window. -/
def Ctl.Unaddressed (c : Ctl) (e : Event) : Prop :=
  ∀ acc, e = .host acc → c.inWindow acc.addr = false

/-- An event that selects no other controller leaves each of the others that it does not address as it was. -/
theorem runEvent_others {s t : State} {e : Event} (he : e.isSelect = false) (h : runEvent e s = .next t) :
    List.Forall₂ (fun c d => c.Unaddressed e → c.SameButForeign d) s.others t.others := by
  have hall : ∀ {ds : List Ctl}, List.Forall₂ Ctl.SameButForeign s.others ds →
      List.Forall₂ (fun c d => c.Unaddressed e → c.SameButForeign d) s.others ds := by
    intro ds hds
    refine hds.imp ?_
    exact fun _ _ hcd _ => hcd
  cases e with
  | host acc => exact (hostStep_others h).imp fun _ _ hcd hout => hcd (hout acc rfl)
  | hostLoad a any | platform deny => cases h; exact hall (Ctl.SameButForeign.all_refl _)
  | hostStore a v any => cases h; exact hall (s.hostStore_others a v any)
  | controller any => cases h; exact hall (s.controllerStep_others any)
  | core draw => rw [coreStep_others h]; exact hall (Ctl.SameButForeign.all_refl _)
  | select k => cases he
  | reset part any =>
    cases h
    exact hall (s.resetStep_others _ Ctl.SameButForeign.refl (fun a _ _ => .markForeign a) part any)

/-- Settles O54: by the agent whose step is taken; what reaches another controller is a write to note, or an access in its
window. -/
theorem instancesAreIndependent : Obligations.InstancesAreIndependent := by
  intro s t e rest hinbox hselect ht
  rw [step_of_inbox hinbox] at ht
  obtain ⟨hlength, hothers⟩ := List.forall₂_iff_get.mp (runEvent_others hselect ht)
  refine ⟨hlength.symm, fun k c d hc hd hout => ?_⟩
  obtain ⟨hkc, rfl⟩ := List.getElem?_eq_some_iff.mp hc
  obtain ⟨hkd, rfl⟩ := List.getElem?_eq_some_iff.mp hd
  exact hothers k hkc hkd fun acc he => (Ctl.inWindow_eq_false_iff _ _).mpr (hout acc he)

end Sys2Proof.Machine
end

section
/-! PROOFS. The obligations of spec/70_reset_and_hazards.md: a message split over two transforms (O39), the reset values
and what a reset leaves of a block write (O41), and the state after reset (O42). -/

namespace Sys2Proof.Machine

/-! ### A message in two transforms (R167) -/

/-- An encryption returns its run: the committed IV is the pair that the last block leaves, and with no block the first
one (R80, R82). -/
theorem igeEnc_eq_run (f : Block → Block) (iv : Chain) (ps : List Block) :
    igeEnc f iv ps = ⟨(chainRun (encStep f) iv ps).outs, (chainRun (encStep f) iv ps).last⟩ := by
  cases ps <;> rfl

/-- An encryption of two parts is one of the first and then one of the second, from the IV that the first commits. -/
theorem igeEnc_append (f : Block → Block) (iv : Chain) (ps qs : List Block) :
    igeEnc f iv (ps ++ qs) =
      ⟨(igeEnc f iv ps).outs ++ (igeEnc f (igeEnc f iv ps).iv qs).outs, (igeEnc f (igeEnc f iv ps).iv qs).iv⟩ := by
  simp only [igeEnc_eq_run, chainRun_append]

/-- A decryption ends at the pair of its last plaintext and its last ciphertext block (R79). -/
theorem chainRun_decStep_last {f : Block → Block} {iv : Chain} {cs : List Block} {p c : Block}
    (hp : (chainRun (decStep f) iv cs).outs.getLast? = some p) (hc : cs.getLast? = some c) :
    (chainRun (decStep f) iv cs).last = ⟨p, c⟩ := by
  obtain ⟨before, rfl⟩ := List.getLast?_eq_some_iff.mp hc
  rw [chainRun_concat, List.getLast?_concat] at hp
  rw [chainRun_concat, ← Option.some.inj hp]
  rfl

/-- Settles O39: the run goes on from the pair that the first part leaves, which an encryption commits and a decryption
shows in its last blocks. -/
theorem messageMaySplit : Obligations.MessageMaySplit := by
  intro f iv ps qs
  have houts := congrArg TransformResult.outs (igeEnc_append f iv ps qs)
  have hiv := congrArg TransformResult.iv (igeEnc_append f iv ps qs)
  refine ⟨houts, hiv, fun p c hp hc => ?_⟩
  have hlast : (chainRun (decStep f) iv ps).last = ⟨p, c⟩ := chainRun_decStep_last hp hc
  simp only [igeDec, chainRun_append, hlast]

/-! ### The bytes of a block that a write reaches (R46) -/

/-- In a rising list, the elements before the first that fails a test are those up to which all pass. -/
theorem mem_takeWhile_of_rising {α : Type*} [Preorder α] {ks : List α} (hks : ks.Pairwise (· < ·)) (p : α → Bool)
    (k : α) : k ∈ ks.takeWhile p ↔ k ∈ ks ∧ ∀ m ∈ ks, m ≤ k → p m = true := by
  induction ks with
  | nil => simp
  | cons a ks ih =>
    obtain ⟨hfirst, hrest⟩ := List.pairwise_cons.mp hks
    by_cases ha : p a = true
    · rw [List.takeWhile_cons_of_pos ha, List.mem_cons, ih hrest, List.mem_cons, List.forall_mem_cons]
      constructor
      · rintro (rfl | ⟨hk, hall⟩)
        · exact ⟨.inl rfl, fun _ => ha, fun m hm hmk => absurd (hfirst m hm) hmk.not_gt⟩
        · exact ⟨.inr hk, fun _ => ha, hall⟩
      · rintro ⟨hk, -, hall⟩
        exact hk.imp_right fun hk => ⟨hk, hall⟩
    · rw [List.takeWhile_cons_of_neg ha, List.mem_cons, List.forall_mem_cons]
      refine iff_of_false List.not_mem_nil ?_
      rintro ⟨rfl | hk, hfirstOk, -⟩
      · exact ha (hfirstOk le_rfl)
      · exact ha (hfirstOk (hfirst k hk).le)

/-- The positions of a block write that are written: those before the first refused one (R46). -/
def State.reachedWrites (s : State) (base : Addr) (ks : List (Fin 16)) : List (Fin 16) :=
  ks.takeWhile fun k => s.memOk (byteAddr base k) .write

/-- Nothing after the first refused position is written (R46). -/
theorem State.writeBytes_reachedWrites (s : State) (base : Addr) (blk any : Block) (ks : List (Fin 16)) :
    (s.writeBytes base blk any (s.reachedWrites base ks)).1 = (s.writeBytes base blk any ks).1 := by
  induction ks generalizing s with
  | nil => rfl
  | cons k ks ih =>
    have hrest := ih (s.putByte (byteAddr base k) (blk.get k) (any.get k))
    by_cases hk : s.memOk (byteAddr base k) .write = true
    · simpa [State.reachedWrites, State.writeBytes, hk] using hrest
    · simp [State.reachedWrites, State.writeBytes, hk]

/-- Memory after a block write: the reached positions hold their bytes, everything else is as it was (R46). -/
theorem State.writeBytes_byteAt {s : State} {base : Addr} {ks : List (Fin 16)} (blk any : Block)
    (hm : s.mem.wf = true) (hks : ks.Pairwise (· < ·)) (k : Fin 16) :
    (s.writeBytes base blk any ks).1.byteAt (byteAddr base k) =
      if k ∈ s.reachedWrites base ks then s.storedByte (byteAddr base k) (blk.get k) (any.get k)
      else s.byteAt (byteAddr base k) := by
  have hnodup : (s.reachedWrites base ks).Nodup :=
    (hks.imp fun h => h.ne).sublist (List.takeWhile_sublist _)
  have hok : ∀ m ∈ s.reachedWrites base ks, s.memOk (byteAddr base m) .write = true :=
    fun m hmem => List.mem_takeWhile_imp (p := fun m => s.memOk (byteAddr base m) .write) hmem
  rw [← s.writeBytes_reachedWrites]
  split
  · next hk => exact (State.writeBytes_accepted hm hnodup hok).2 k hk
  · next hk => exact State.writeBytes_outside hm fun m hmem heq => hk (byteAddr_injective heq ▸ hmem)

/-! ### Reset (R160, R161) -/

theorem blockPositions_rising : blockPositions.Pairwise (· < ·) := by
  decide

theorem mem_blockPositions_take_iff (part : Nat) (k : Fin 16) : k ∈ blockPositions.take part ↔ k.val < part := by
  by_cases hpart : part < 16
  · exact mem_blockPositions_take ⟨part, hpart⟩ k
  · have hall : blockPositions.take part = blockPositions := List.take_of_length_le (not_lt.mp hpart)
    rw [hall]
    exact iff_of_true (mem_blockPositions k) (by omega)

/-- The positions that an abandoned block write has reached: the first `part`, up to the first refused one (R161). -/
theorem State.mem_reachedWrites_take (s : State) (base : Addr) (part : Nat) (k : Fin 16) :
    k ∈ s.reachedWrites base (blockPositions.take part) ↔
      k.val < part ∧ ∀ m, m ≤ k → s.memOk (byteAddr base m) .write = true := by
  have hrising := blockPositions_rising.sublist (List.take_sublist part _)
  simp only [State.reachedWrites, mem_takeWhile_of_rising hrising, mem_blockPositions_take_iff]
  refine and_congr_right fun hk => ⟨fun h m hmk => h m (lt_of_le_of_lt hmk hk) hmk, fun h m _ => h m⟩

/-- What a reset in the write phase leaves of the block: reached positions are written, the others are not (R161). -/
theorem State.resetStep_write_byteAt {s : State} (part : Nat) (any : Block) (hm : s.mem.wf = true)
    (hq : s.ctl.seq = .processing) (hp : s.ctl.ph = .write) (k : Fin 16) :
    (s.resetStep part any).byteAt (byteAddr s.ctl.outputAddr k) =
      if k.val < part ∧ ∀ m, m ≤ k → s.memOk (byteAddr s.ctl.outputAddr m) .write = true then
        s.storedByte (byteAddr s.ctl.outputAddr k) (s.ctl.outBlk.get k) (any.get k)
      else s.byteAt (byteAddr s.ctl.outputAddr k) := by
  have hrising := blockPositions_rising.sublist (List.take_sublist part _)
  rw [State.resetStep, State.abandonWrite, if_pos ⟨hq, hp⟩, State.mapCtl_byteAt,
    State.writeBytes_byteAt _ _ hm hrising]
  simp only [State.mem_reachedWrites_take]

/-- A reset changes no byte outside the block of the transform (R161). -/
theorem State.resetStep_kept {s : State} (part : Nat) (any : Block) (hm : s.mem.wf = true) {a : Addr}
    (ha : ¬ blockCovers s.ctl.outputAddr a) : (s.resetStep part any).byteAt a = s.byteAt a := by
  rw [State.resetStep, State.mapCtl_byteAt, State.abandonWrite]
  split
  · exact State.writeBytes_outside hm fun k _ hk => ha ⟨k, hk⟩
  · rfl

/-- Settles O41: the controller is the one right after reset, and a block write stops where the reset falls into it. -/
theorem resetValues : Obligations.ResetValues := by
  refine ⟨fun c hc => ?values, fun s part any rest hinbox hm => ?event⟩
  case values =>
    obtain ⟨base, rfl⟩ : ∃ base, c = Ctl.atReset base := by
      rcases hc with rfl | ⟨u, rfl⟩
      · exact ⟨0#32, rfl⟩
      · exact ⟨u.regBase, rfl⟩
    have hword := Vector.get_replicate 8 0#32
    have hbyte := Vector.get_replicate 16 0#8
    exact ⟨rfl, rfl, rfl, rfl, rfl, rfl, rfl, rfl, rfl, rfl, rfl, rfl, hword, hword, rfl, hbyte, hbyte, hbyte, hbyte,
      rfl, rfl, rfl, rfl⟩
  case event =>
    obtain ⟨hctl, hdeny, hmemResp, hrest⟩ := State.resetStep_frame { s with inbox := rest } part any
    have hbase := congrArg Ctl.regBase hctl
    refine ⟨_, step_of_inbox hinbox, hctl, hbase, hrest, hdeny, hmemResp, fun hout => ?outside,
      fun a ha => State.resetStep_kept (s := { s with inbox := rest }) part any hm ha, fun hq hp k => ?block⟩
    case outside =>
      rw [State.resetStep_outside (s := { s with inbox := rest }) part any hout]
      exact ⟨rfl, rfl⟩
    case block =>
      have hbyte := State.resetStep_write_byteAt (s := { s with inbox := rest }) part any hm hq hp k
      refine ⟨fun hreached => hbyte.trans (if_pos hreached), fun hleft => hbyte.trans (if_neg ?_)⟩
      rintro ⟨hlt, hok⟩
      rcases hleft with hle | ⟨m, hmk, hrefused⟩
      · exact absurd hlt hle.not_gt
      · cases (hok m hmk).symm.trans hrefused

/-- Settles O42: the controller right after reset is legal and tracked, there is no other, and memory lists nothing. -/
theorem resetIsLegal : Obligations.ResetIsLegal :=
  ⟨⟨Ctl.atReset_legal _, List.forall_mem_nil _⟩, ⟨tracks_keptByAgents.reset _, List.forall_mem_nil _⟩, rfl⟩

end Sys2Proof.Machine
end
